-- ==== Sys2Proof/Word.lean ====
section
/-! DEFINITION. The words of the block: bytes and nibbles, with the one count the spec takes of them (00_scope.md section 5). -/

namespace Sys2Proof

/-- An 8-bit value: the unit of transfer (R42), a character code (R66), a line number (R23). -/
abbrev Byte := BitVec 8

/-- A 4-bit nibble, what one enable pulse marks (R42). -/
abbrev Nibble := BitVec 4

/-- `popcount(v)`, the number of 1 bits of `v` (00_scope.md section 5). -/
def popcount {w : Nat} (v : BitVec w) : Nat :=
  ((List.range w).filter fun i => v.getLsbD i).length

end Sys2Proof
end

