-- ==== Sys2Proof/Syntax.lean ====
section
/-! DEFINITION. The roles of the six lines, the events, and `Instr`: one constructor per row of
spec/opcode_table.json, in the table's order. -/

namespace Sys2Proof

/-- The roles of the six lines, in the order the spec uses whenever an order is needed (R11). -/
inductive Role where
  | rs | e | d4 | d5 | d6 | d7
  deriving DecidableEq, Repr

/-- One value per line: the shape of `handle`, `dir`, `level` and of the six pin identifiers (R11). -/
structure Lines (α : Type) where
  rs : α
  e  : α
  d4 : α
  d5 : α
  d6 : α
  d7 : α
  deriving DecidableEq, Repr

/-- A pin identifier of `PIN_ID_W` = 8 bits (R71; log 6). -/
abbrev PinId := BitVec 8

/-- A handle to an externally owned pin, known to the block only by which pin it is (R12; log 5). -/
abbrev Handle := Nat

/-- The two durations a WAIT can have; the trace keeps which of the two it was (R33). -/
inductive Delay where
  /-- `E_DELAY`, the settle delay. -/
  | eDelay
  /-- `E_PULSE`, the enable-pulse duration. -/
  | ePulse
  deriving DecidableEq, Repr

/-- The events, and there is no other (R32 to R35). -/
inductive Event where
  /-- `SET(r, b)`: write level `b` to the line of role `r` (R32). -/
  | set (r : Role) (b : Bool)
  /-- `WAIT(d)`: at least `d` microseconds pass (R33). -/
  | wait (d : Delay)
  /-- `CFG(r)`: configure the line of role `r` as an output (R34). -/
  | cfg (r : Role)
  deriving DecidableEq, Repr

/-- The rows of spec/opcode_table.json. A mode or a level is a `Bool`: false = 0 = low = Command,
true = 1 = high = Character (R7). A text is a finite list of 8-bit codes (R70, D7). -/
inductive Instr where
  /-- Row CONSTRUCT: bind the six lines, configure them, initialise (R101). -/
  | construct (ids : Lines PinId)
  /-- Row CLEAR: send the clear-display instruction (R98). -/
  | clear
  /-- Row SHOW_LINE (R99). -/
  | showLine (text : List Byte) (line : Byte)
  /-- Row SHOW: both lines from one text (R100). -/
  | showBoth (text : List Byte)
  /-- Row TOGGLE_E: one enable pulse (R80). -/
  | toggleE
  /-- Row DRIVE_NIBBLE (R85). -/
  | driveNibble (n : Nibble)
  /-- Row SEND: one byte in one mode (R86). -/
  | send (v : Byte) (m : Bool)
  /-- Row INITIALIZE (R96). -/
  | initializeLcd
  /-- Row WRITE_LINE (R97). -/
  | writeLine (text : List Byte) (line : Byte)
  /-- Row SEND.CMD: the transmit word with mode bit 0 (R61, R86). -/
  | sendCmd (v : Byte)
  /-- Row SEND.CHR: the transmit word with mode bit 1 (R61, R86). -/
  | sendChr (v : Byte)
  /-- Row INIT0: Command byte 0x33 (R64). -/
  | init0
  /-- Row INIT1: Command byte 0x32 (R64). -/
  | init1
  /-- Row INIT2: Command byte 0x06 (R64). -/
  | init2
  /-- Row INIT3: Command byte 0x0C (R64). -/
  | init3
  /-- Row INIT4: Command byte 0x28 (R64). -/
  | init4
  /-- Row INIT5: Command byte 0x01, also CLEAR_CMD (R64). -/
  | init5
  /-- Row ADDR_L1: Command byte 0x80 (R64). -/
  | addrL1
  /-- Row ADDR_L2: Command byte 0xC0 (R64). -/
  | addrL2
  /-- Row CHR: a Character byte, any code (R64, R66). -/
  | chr (c : Byte)
  /-- Row FRAME: the nibble frame, RS = `m` and D7..D4 = `n` during one enable pulse (R62). -/
  | frame (m : Bool) (n : Nibble)
  /-- Row SET: the event `SET(r, b)` (R32). -/
  | set (r : Role) (b : Bool)
  /-- Row WAIT: the event `WAIT(d)` (R33). -/
  | wait (d : Delay)
  /-- Row CFG: the event `CFG(r)` (R34). -/
  | cfg (r : Role)
  /-- Row OK: the response code 0 (R72). -/
  | ok
  /-- Row InvalidPinID: the response code 1 (R121). -/
  | invalidPinID
  /-- Row InvalidLineNumber: the response code 2 (R122). -/
  | invalidLineNumber
  deriving DecidableEq, Repr

/-- The eight formats of spec/opcode_table.json, in the order of their first rows (R79). -/
inductive Format where
  | hostreq | intsel | txw | cmdbyte | chrbyte | nf | evsel | resp
  deriving DecidableEq, Repr

/-- Why a decoder reads no instruction, by name. -/
inductive Reject where
  /-- The request or word is not whole yet: a request's length follows from its header and its text length (R75). -/
  | incomplete
  /-- Host request with `op` 4 to 7 (R73). -/
  | reservedOp
  /-- Host request with `rsv` not 0 (R73). -/
  | reservedRsv
  /-- Host request with `arg` not 0 and `op` 0, 1 or 3 (R73). -/
  | reservedArg
  /-- A tag of the table that names no row: `sel` 5 to 7, `ev` 3 (D27). -/
  | unusedTag
  /-- A bit above the format's width is set. -/
  | bitsAboveWidth
  /-- A Command byte that the block never emits (R74). -/
  | notACommandByte
  /-- A role number above 5, or a duration number above 1, in an operand of the table's own rows (log 2). -/
  | noSuchOperand
  /-- Response code 3, never produced (R72). -/
  | noSuchResponse
  deriving DecidableEq, Repr

end Sys2Proof
end

