-- ==== Sys2Proof/Config.lean ====
section
/-! DEFINITION. What an implementation fixes and the spec leaves open: opaque constants, with no value
that a proof could see. The parameters a claim wants to quantify over (`resolve`, `DIAG_ENABLE`,
`PIN_RESET_LEVEL`) are fields of `State.plat` instead (log 5). -/

namespace Sys2Proof.Config

/-- `F_CLK`, the clock of the delay timer in ticks a second (R5, R26: OPEN; log 8). -/
opaque fClk : Nat

/-- What TIMER holds once it has expired after being loaded with so many ticks: its counting direction
is not in the source (R26; log 8). -/
opaque timerAfter : Nat → Nat

/-- TIMER outside the operation that loaded it: any value (V4; log 8). -/
opaque freeTimer : Nat → Nat

/-- VALUE outside the operation that loaded it: any value (V4; log 7). -/
opaque freeValue : Nat → Byte

/-- MODE outside the operation that loaded it: any value (V4; log 7). -/
opaque freeMode : Nat → Bool

/-- LINE outside the operation that loaded it: any value (V4; log 7). -/
opaque freeLine : Nat → Byte

/-- TL[0..15] outside the operation that loaded it: any value (V4; log 7). -/
opaque freeText : Nat → Vector Byte 16

/-- The `resolve` of the spec's vectors and programs: identifiers 0 to 40 resolve to distinct handles,
all others to none (95_test_vectors.md sections 2.9 and 3). Reset's platform only (log 5). -/
def vectorPins : List (PinId × Handle) :=
  (List.range 41).map fun n => (BitVec.ofNat 8 n, n)

end Sys2Proof.Config
end

