-- ==== Sys2Proof/Machine/State.lean ====
section
/-! DEFINITION. The state of the block (10_state.md section 1), its inputs and its output streams as plain
data, the reasons a step can stop, and the state after reset. -/

namespace Sys2Proof.Machine

/-- What an output latch holds: 0, 1, or `X`, no value written since reset or configuration (R14). -/
inductive Level where
  | low | high
  /-- `X`; no rule reads it (V3). -/
  | x
  deriving DecidableEq, Repr

/-- The direction of a line (R13). -/
inductive Dir where
  | unconfigured | output
  deriving DecidableEq, Repr

/-- The lifecycle register (R20). -/
inductive Life where
  | unconstructed | ready
  deriving DecidableEq, Repr

/-- A response, posted once per accepted request (R72); code 3 is never produced and has no constructor (V8). -/
inductive Response where
  | ok | invalidPinID | invalidLineNumber
  deriving DecidableEq, Repr

/-- A register transfer inside the block that comes with an event of a running operation. -/
inductive Transfer where
  /-- A SEND starts: VALUE and MODE take its operands (R22). -/
  | loadSend (v : Byte) (m : Bool)
  /-- A WRITE_LINE starts: LINE takes the line number (R23). -/
  | loadLine (line : Byte)
  /-- `TL <- Norm(text)`, after the address byte of a WRITE_LINE (R24, R97). -/
  | loadTl (tl : Vector Byte 16)
  /-- A WRITE_LINE gives its text to the diagnostic channel (R102). -/
  | diag (text : List Byte)
  /-- The last SEND of the operation is over: VALUE and MODE hold any value (V4). -/
  | dropSend
  deriving DecidableEq, Repr

/-- One position of a running operation: its event and the transfers that come with it. -/
structure Micro where
  pre   : List Transfer
  event : Event
  deriving DecidableEq, Repr

/-- The running operation `(op, ev, k)` of R21: `ev` is `plan` without the transfers, `k` the sequencer position. -/
structure Running where
  op   : Instr
  plan : List Micro
  k    : Nat
  deriving DecidableEq, Repr

/-- The parameters a platform supplies, fixed for a machine: no step changes them (log 5). -/
structure Platform where
  /-- `resolve` as a list of pairs; an identifier that is not listed does not resolve (R58, D8). -/
  pins       : List (PinId × Handle)
  /-- `DIAG_ENABLE` (R102, D12). -/
  diagEnable : Bool
  /-- `PIN_RESET_LEVEL` (R30, D4). -/
  pinReset   : Lines Level
  deriving DecidableEq, Repr

/-- The state of the block. -/
structure State where
  /-- The pin each role is bound to, or none (R12). -/
  handle    : Lines (Option Handle)
  /-- The direction of each line (R13). -/
  dir       : Lines Dir
  /-- The output latch of each line (R14). -/
  level     : Lines Level
  /-- The lifecycle (R20). -/
  life      : Life
  /-- The running operation and the sequencer position, none when idle (R21). -/
  cur       : Option Running
  /-- VALUE, the byte the transmitter is sending (R22). -/
  value     : Byte
  /-- MODE, the mode of that byte (R22). -/
  mode      : Bool
  /-- LINE, the line operand of the WRITE_LINE in progress (R23). -/
  line      : Byte
  /-- TL[0..15], the normalised text line (R24). -/
  tl        : Vector Byte 16
  /-- TIMER, the delay timer, of the implementation's size (R26). -/
  timer     : Nat
  /-- PINTRACE, every event performed since reset, in order (R27). -/
  pinTrace  : List Event
  /-- DIAGTRACE, the texts given to the diagnostic channel (R27, R102). -/
  diagTrace : List (List Byte)
  /-- RESP, one response per accepted request (R27, R72). -/
  resp      : List Response
  /-- Input: the reset input is asserted (R140; log 12). -/
  rst       : Bool
  /-- Input: what the host has laid on the request port and the block has not taken (R40; log 1). -/
  hostIn    : List Byte
  /-- Input: the host's program, the requests that it has not sent yet, each as its bytes; it sends the next
  one after the response to the one before (R115; log 24). -/
  program   : List (List Byte)
  /-- The platform's parameters (log 5). -/
  plat      : Platform
  /-- The model's own: a table row, not a host request, presented to run on its own (log 3). -/
  unitCall  : Option Instr
  /-- The model's own: how many free values have been drawn (log 7). -/
  draws     : Nat
  deriving DecidableEq, Repr

/-- The block has no fault (R135): no step stops with one, and the type is empty. -/
inductive Fault where
  deriving DecidableEq, Repr

/-- Why a run ends with a request or a row that the spec gives no meaning (R95, R115, R135). -/
inductive Refusal where
  /-- Raised by exec for an instruction not yet given its meaning; safe. No arm raises it. -/
  | notModelled (mnemonic : String)
  /-- Raised by step for a host request with a reserved encoding (R73, V1); safe. -/
  | reservedRequest (why : Reject)
  /-- Raised by the four host operations when an operation is running, hence by step for a whole request at
  the port of a busy block (R95, V2, C8); safe. -/
  | busy
  /-- Raised by CLEAR, SHOW_LINE and SHOW when `life` is UNCONSTRUCTED (R95, V2); safe. -/
  | needsReady
  /-- Raised by CONSTRUCT when `life` is READY (R95, V2); safe. -/
  | alreadyConstructed
  /-- Raised by SET on a line that is not an output, which R32 requires (log 10); safe. -/
  | lineNotOutput
  /-- Raised by CFG on a line with no handle bound, which R34 requires (log 10); safe. -/
  | lineNotBound
  /-- Raised by a response row where the sequencer does not post it: OK before the end of an operation or
  with none running, an error while one runs (R113, R126; log 16); safe. -/
  | responseOutOfTurn
  deriving DecidableEq, Repr

/-- The same value on all six lines. -/
def allLines {α : Type} (a : α) : Lines α := ⟨a, a, a, a, a, a⟩

/-- The platform of the spec's vectors and programs (95_test_vectors.md sections 2.9 and 3; log 5). -/
def Platform.vectors : Platform where
  pins := Config.vectorPins
  diagEnable := true
  pinReset := allLines .x

/-- The state right after reset (R30, R140). VALUE, MODE, LINE, TL and TIMER are unspecified there; their
zeros are the model's (log 7, log 8). -/
def State.reset : State where
  handle := allLines none
  dir := allLines .unconfigured
  level := Platform.vectors.pinReset
  life := .unconstructed
  cur := none
  value := 0#8
  mode := false
  line := 0#8
  tl := Vector.replicate 16 0#8
  timer := 0
  pinTrace := []
  diagTrace := []
  resp := []
  rst := false
  hostIn := []
  program := []
  plat := Platform.vectors
  unitCall := none
  draws := 0

end Sys2Proof.Machine
end

