-- ==== Sys2Proof/Machine/Flags.lean ====
section
/-! DEFINITION. The one flag of the block, the mode flag, and levels as truth values (R7, R25). There is no
other flag and no condition code. -/

namespace Sys2Proof.Machine

/-- `MODE_CMD` = 0: a byte is a controller instruction (R17, R45). -/
def modeCmd : Bool := false

/-- `MODE_CHR` = 1: a byte is display data (R17, R45). -/
def modeChr : Bool := true

/-- A truth value as a level: false = 0 = low, true = 1 = high (R7). -/
def levelOfBool (b : Bool) : Level := if b then .high else .low

/-- A written level as a truth value; `X` has none (R7, R14). -/
def Level.toBool? (l : Level) : Option Bool :=
  match l with
  | .low => some false
  | .high => some true
  | .x => none

end Sys2Proof.Machine
end

