-- ==== Sys2Proof/Machine/DisplayConfig.lean ====
section
/-! DEFINITION. DisplayConfig: the block's read-only constants (R5, R17, R18), which no operation writes
(R19). -/

namespace Sys2Proof.Machine

/-- `WIDTH`, the display width in characters (R17). -/
def displayWidth : Nat := 16

/-- `LINE_BASE[1]` (R17). -/
def lineBase1 : Byte := 0x80#8

/-- `LINE_BASE[2]` (R17). -/
def lineBase2 : Byte := 0xC0#8

/-- `E_PULSE` in microseconds (R17). -/
def ePulse : Nat := 500

/-- `E_DELAY` in microseconds (R17). -/
def eDelay : Nat := 500

/-- `INIT_SEQ`, in this exact order (R18). -/
def initSeq : List Byte := [0x33#8, 0x32#8, 0x06#8, 0x0C#8, 0x28#8, 0x01#8]

/-- `CLEAR_CMD` (R18). -/
def clearCmd : Byte := 0x01#8

/-- `SPACE`, the padding code: the spec's general knowledge, not its source (R67, D10; log 17). -/
def space : Byte := 0x20#8

/-- `SHOW_CHUNK`, the characters of a chunk of SHOW (R68, D11; log 19). -/
def showChunk : Nat := displayWidth

/-- How many microseconds a WAIT of this name stands for (R33). -/
def delayMicros (d : Delay) : Nat :=
  match d with
  | .eDelay => eDelay
  | .ePulse => ePulse

/-- The roles, in the spec's order (R11). -/
def allRoles : List Role := [.rs, .e, .d4, .d5, .d6, .d7]

end Sys2Proof.Machine
end

