-- ==== Sys2Proof/Machine/Operands.lean ====
section
/-! DEFINITION. The operand computations, all that the block computes (R78): nibble slices, the line base,
the normalised text, the chunks of SHOW, the resolution of six pin identifiers. -/

namespace Sys2Proof.Machine

/-- `hi = v[7:4]` (R63). -/
def highNibble (v : Byte) : Nibble := v.extractLsb' 4 4

/-- `lo = v[3:0]` (R63). -/
def lowNibble (v : Byte) : Nibble := v.extractLsb' 0 4

/-- `{hi, lo} = hi * 16 + lo` (R63). -/
def joinNibbles (hi lo : Nibble) : Byte := hi ++ lo

/-- `Base(line)`, a table lookup, undefined for a line other than 1 and 2 (R65). -/
def lineBase (line : Byte) : Option Byte :=
  if line = 1#8 then some lineBase1
  else if line = 2#8 then some lineBase2
  else none

/-- `Norm(text) = (text ++ [SPACE] × 16)[0:16]`, exactly 16 codes (R67). -/
def normText (text : List Byte) : Vector Byte 16 :=
  ⟨⟨(text ++ List.replicate displayWidth space).take displayWidth⟩, by
    simp [displayWidth]⟩

/-- `Chunk1(text) = text[0:16]` (R68). -/
def chunk1 (text : List Byte) : List Byte := text.take showChunk

/-- `Chunk2(text) = text[16:32]` (R68). -/
def chunk2 (text : List Byte) : List Byte := (text.drop showChunk).take showChunk

/-- `resolve(id)`, a handle or none (R58). -/
def Platform.resolve (p : Platform) (id : PinId) : Option Handle := p.pins.lookup id

/-- The handles of six identifiers, if all six resolve and no two roles get the same pin (R101, D14). -/
def resolveAll (p : Platform) (ids : Lines PinId) : Option (Lines Handle) := do
  let rs ← p.resolve ids.rs
  let e ← p.resolve ids.e
  let d4 ← p.resolve ids.d4
  let d5 ← p.resolve ids.d5
  let d6 ← p.resolve ids.d6
  let d7 ← p.resolve ids.d7
  if [rs, e, d4, d5, d6, d7].Nodup then some ⟨rs, e, d4, d5, d6, d7⟩ else none

end Sys2Proof.Machine
end

