-- ==== Sys2Proof/Machine/Ops.lean ====
section
/-! DEFINITION. The named operations on the state: reading and writing the six lines, performing an event
(R32 to R34), the transfers into the operand registers, accepting a request (R95), raising an error (R126),
ending an operation (R113), and reset (R140). There is no return from an error: after one the block is idle
and takes the next request (R127). -/

namespace Sys2Proof.Machine

/-- What a step answers. -/
abbrev StepResult := Host.Outcome State Fault Refusal

/-- Go on from a next state; a stop stays a stop. -/
def andThen (o : StepResult) (f : State → StepResult) : StepResult :=
  match o with
  | .next s => f s
  | .fault r => .fault r
  | .refused r => .refused r

/-- The value of the line of a role. -/
def getLine {α : Type} (l : Lines α) (r : Role) : α :=
  match r with
  | .rs => l.rs
  | .e => l.e
  | .d4 => l.d4
  | .d5 => l.d5
  | .d6 => l.d6
  | .d7 => l.d7

/-- The six values with that of one role replaced. -/
def setLine {α : Type} (l : Lines α) (r : Role) (a : α) : Lines α :=
  match r with
  | .rs => { l with rs := a }
  | .e => { l with e := a }
  | .d4 => { l with d4 := a }
  | .d5 => { l with d5 := a }
  | .d6 => { l with d6 := a }
  | .d7 => { l with d7 := a }

/-- Six handles, all bound. -/
def boundLines (h : Lines Handle) : Lines (Option Handle) :=
  ⟨some h.rs, some h.e, some h.d4, some h.d5, some h.d6, some h.d7⟩

/-- Append a performed event to PINTRACE (R27). -/
def State.emit (s : State) (e : Event) : State := { s with pinTrace := s.pinTrace ++ [e] }

/-- The effect of `SET(r, b)`: the latch takes the level, whatever it held before (R32). -/
def State.setLevel (s : State) (r : Role) (b : Bool) : State :=
  { s with level := setLine s.level r (levelOfBool b) }

/-- The ticks TIMER is loaded with for a wait: `ceil(d × F_CLK)`, `F_CLK` in ticks a second (R26). -/
def waitTicks (d : Delay) : Nat := (delayMicros d * Config.fClk + 999999) / 1000000

/-- The effect of `WAIT(d)`: TIMER is loaded and has expired when the next event is performed (R26, R33; log 8). -/
def State.runTimer (s : State) (d : Delay) : State := { s with timer := Config.timerAfter (waitTicks d) }

/-- The effect of `CFG(r)`: the line becomes an output and its latch holds no value (R34). -/
def State.configure (s : State) (r : Role) : State :=
  { s with dir := setLine s.dir r .output, level := setLine s.level r .x }

/-- Perform an event and append it to PINTRACE. It cannot fail where its requirement holds (R32, R34); where
it does not, the spec gives no effect (log 10). -/
def perform (e : Event) (s : State) : StepResult :=
  match e with
  | .set r b => if getLine s.dir r = .output then .next ((s.setLevel r b).emit e) else .refused .lineNotOutput
  | .wait d => .next ((s.runTimer d).emit e)
  | .cfg r => if (getLine s.handle r).isSome then .next ((s.configure r).emit e) else .refused .lineNotBound

/-- VALUE and MODE hold any value once the SEND that loaded them is over (V4; log 7). -/
def State.dropSend (s : State) : State :=
  { s with value := Config.freeValue s.draws, mode := Config.freeMode s.draws, draws := s.draws + 1 }

/-- VALUE, MODE, LINE, TL and TIMER hold any value outside an operation (V4; log 7, log 8). -/
def State.dropOperands (s : State) : State :=
  { s with
    value := Config.freeValue s.draws
    mode := Config.freeMode s.draws
    line := Config.freeLine s.draws
    tl := Config.freeText s.draws
    timer := Config.freeTimer s.draws
    draws := s.draws + 1 }

/-- Give a text to the diagnostic channel, when `DIAG_ENABLE` is 1 (R102). -/
def State.diag (s : State) (text : List Byte) : State :=
  if s.plat.diagEnable then { s with diagTrace := s.diagTrace ++ [text] } else s

/-- Make one transfer. -/
def State.transfer (s : State) (t : Transfer) : State :=
  match t with
  | .loadSend v m => { s with value := v, mode := m }
  | .loadLine line => { s with line := line }
  | .loadTl tl => { s with tl := tl }
  | .diag text => s.diag text
  | .dropSend => s.dropSend

/-- Make the transfers that come with an event, in order. -/
def State.transfers (s : State) (ts : List Transfer) : State := ts.foldl State.transfer s

/-- Perform one position of an operation: its transfers, then its event. -/
def runMicro (m : Micro) (s : State) : StepResult := perform m.event (s.transfers m.pre)

/-- The big-step reading of an operation: apply its whole list in order (R113). -/
def runPlan (ms : List Micro) (s : State) : StepResult :=
  match ms with
  | [] => .next s
  | m :: rest => andThen (runMicro m s) (runPlan rest)

/-- Accept a host request: the block is idle and the operation fits the lifecycle, else it is refused with
no event, no state change and no response (R95). -/
def accept (need : Life) (s : State) (go : State → StepResult) : StepResult :=
  if s.cur.isSome then .refused .busy
  else if s.life = need then go s
  else .refused (match need with | .ready => .needsReady | .unconstructed => .alreadyConstructed)

/-- An accepted operation that passed its validation starts: `cur` becomes `(op, ev, 0)` (R21). -/
def State.start (s : State) (op : Instr) (plan : List Micro) : State :=
  { s with cur := some { op := op, plan := plan, k := 0 } }

/-- Post a response (R27, R72). -/
def State.post (s : State) (r : Response) : State := { s with resp := s.resp ++ [r] }

/-- Raise an error: its response is posted, `cur` stays none, nothing is saved, no mode changes and no
handler runs (R126). Errors come before every event (R124), so none is raised while an operation runs. -/
def raise (e : Response) (s : State) : StepResult :=
  if s.cur.isSome then .refused .responseOutOfTurn else .next (s.post e)

/-- The lifecycle after an operation's OK: only CONSTRUCT writes it (R20, R113). -/
def lifeAfter (op : Instr) (l : Life) : Life :=
  match op with
  | .construct _ => .ready
  | .clear | .showLine _ _ | .showBoth _ | .toggleE | .driveNibble _ | .send _ _ | .initializeLcd
  | .writeLine _ _ | .sendCmd _ | .sendChr _ | .init0 | .init1 | .init2 | .init3 | .init4 | .init5
  | .addrL1 | .addrL2 | .chr _ | .frame _ _ | .set _ _ | .wait _ | .cfg _
  | .ok | .invalidPinID | .invalidLineNumber => l

/-- The end of an operation: when `k = len(ev)`, its final state write, the response OK, and `cur` is none
(R113). Nothing of its operands survives (R28). -/
def finish (s : State) : StepResult :=
  match s.cur with
  | none => .refused .responseOutOfTurn
  | some r =>
    if r.k < r.plan.length then .refused .responseOutOfTurn
    else .next ({ s.dropOperands with life := lifeAfter r.op s.life, cur := none }.post .ok)

/-- Reset: every piece of state at its value of R30, a running operation discarded, no event (R140, R141).
The host's port and program and the platform are outside the block and stay (log 12). -/
def State.applyReset (s : State) : State :=
  { State.reset with
    level := s.plat.pinReset
    hostIn := s.hostIn
    program := s.program
    plat := s.plat
    draws := s.draws }.dropOperands

end Sys2Proof.Machine
end

