-- ==== Sys2Proof/Machine/Expand.lean ====
section
/-! DEFINITION. Every operation as the finite list of events its rule gives for its operands (00_scope.md
section 6: the big-step form), with the register transfers that come with them. `call OP` inserts OP's list
at its place. -/

namespace Sys2Proof.Machine

/-- A list of events with no transfers. -/
def plain (es : List Event) : List Micro := es.map fun e => { pre := [], event := e }

/-- A list whose first event comes with these transfers. -/
def withPre (ts : List Transfer) (ms : List Micro) : List Micro :=
  match ms with
  | [] => []
  | m :: rest => { m with pre := ts ++ m.pre } :: rest

/-- The event list of a plan, the `ev` of R21. -/
def planEvents (ms : List Micro) : List Event := ms.map fun m => m.event

/-- The events of TOGGLE_E, always these five (R80). -/
def toggleEvents : List Event :=
  [.wait .eDelay, .set .e true, .wait .ePulse, .set .e false, .wait .eDelay]

/-- `if n[i] = 1: emit SET(r, 1)` (R85). -/
def raiseIf (b : Bool) (r : Role) : List Event := if b then [.set r true] else []

/-- The events of DRIVE_NIBBLE: all four data lines low, then the lines of the set bits high; inside each
group D4, D5, D6, D7 (R85, D3). -/
def nibbleEvents (n : Nibble) : List Event :=
  [.set .d4 false, .set .d5 false, .set .d6 false, .set .d7 false]
    ++ raiseIf (n.getLsbD 0) .d4 ++ raiseIf (n.getLsbD 1) .d5
    ++ raiseIf (n.getLsbD 2) .d6 ++ raiseIf (n.getLsbD 3) .d7

/-- The events of SEND: RS, the high nibble, a pulse, the low nibble, a pulse (R86). -/
def sendEvents (v : Byte) (m : Bool) : List Event :=
  [.set .rs m] ++ nibbleEvents (highNibble v) ++ toggleEvents ++ nibbleEvents (lowNibble v) ++ toggleEvents

/-- SEND: VALUE and MODE are loaded when it starts (R22, R86). -/
def sendPlan (v : Byte) (m : Bool) : List Micro := withPre [.loadSend v m] (plain (sendEvents v m))

/-- The events that put one nibble frame on the lines and mark it: RS, the nibble, one pulse (R62; log 14). -/
def frameEvents (m : Bool) (n : Nibble) : List Event := [.set .rs m] ++ nibbleEvents n ++ toggleEvents

/-- INITIALIZE: the six bytes of `INIT_SEQ` in Command mode, then one additional `e_delay` (R96). -/
def initializePlan : List Micro :=
  initSeq.flatMap (fun v => sendPlan v modeCmd) ++ [{ pre := [.dropSend], event := .wait .eDelay }]

/-- WRITE_LINE past its validation: the address byte, then `TL <- Norm(text)`, then the 16 codes (R97). The text
goes to the diagnostic channel with the first event (R102; log 11). -/
def linePlan (text : List Byte) (line base : Byte) : List Micro :=
  withPre [.diag text, .loadLine line] (sendPlan base modeCmd)
    ++ withPre [.loadTl (normText text)] ((normText text).toList.flatMap fun c => sendPlan c modeChr)

/-- WRITE_LINE: none where it raises InvalidLineNumber, before any event (R97). -/
def writeLinePlan (text : List Byte) (line : Byte) : Option (List Micro) :=
  (lineBase line).map (linePlan text line)

/-- CLEAR: one SEND of `CLEAR_CMD` (R98). -/
def clearPlan : List Micro := sendPlan clearCmd modeCmd

/-- SHOW: line 1 is complete before line 2 starts (R100). -/
def showPlan (text : List Byte) : List Micro :=
  linePlan (chunk1 text) 1#8 lineBase1 ++ linePlan (chunk2 text) 2#8 lineBase2

/-- CONSTRUCT past its validation: CFG of the six roles in order, then INITIALIZE (R101). -/
def constructPlan : List Micro := plain (allRoles.map Event.cfg) ++ initializePlan

/-- An event as the table's row for it (R79). -/
def instrOfEvent (e : Event) : Instr :=
  match e with
  | .set r b => .set r b
  | .wait d => .wait d
  | .cfg r => .cfg r

end Sys2Proof.Machine
end

