-- ==== Sys2Proof/Machine/Events.lean ====
section
/-! DEFINITION. The meanings of the rows of format EVSEL, one event each (R32 to R35). -/

namespace Sys2Proof.Machine

/-- Row SET (R32). -/
def execSet (r : Role) (b : Bool) (s : State) : StepResult := perform (.set r b) s

/-- Row WAIT (R33). -/
def execWait (d : Delay) (s : State) : StepResult := perform (.wait d) s

/-- Row CFG (R34). -/
def execCfg (r : Role) (s : State) : StepResult := perform (.cfg r) s

end Sys2Proof.Machine
end

