-- ==== Sys2Proof/Machine/Responses.lean ====
section
/-! DEFINITION. The meanings of the rows of format RESP: posting a response (R72). -/

namespace Sys2Proof.Machine

/-- Row OK: the end of the running operation (R113). -/
def execOk (s : State) : StepResult := finish s

/-- Row InvalidPinID: the error is raised (R121, R126). -/
def execInvalidPinID (s : State) : StepResult := raise .invalidPinID s

/-- Row InvalidLineNumber: the error is raised (R122, R126). -/
def execInvalidLineNumber (s : State) : StepResult := raise .invalidLineNumber s

end Sys2Proof.Machine
end

