-- ==== Sys2Proof/Machine/Sequencer.lean ====
section
/-! DEFINITION. The command/character sequencer: the two internal operations INITIALIZE and WRITE_LINE,
which run whole (log 15), and the four host operations, which are accepted and then performed event by
event (R95, R113). -/

namespace Sys2Proof.Machine

/-- Row INITIALIZE (R96). -/
def execInitializeLcd (s : State) : StepResult := runPlan initializePlan s

/-- Row WRITE_LINE: InvalidLineNumber before any event, or the whole line (R97). -/
def execWriteLine (text : List Byte) (line : Byte) (s : State) : StepResult :=
  match writeLinePlan text line with
  | none => raise .invalidLineNumber s
  | some p => andThen (runPlan p s) fun t => .next t.dropOperands

/-- Row CLEAR (R98). -/
def execClear (s : State) : StepResult :=
  accept .ready s fun t => .next (t.start .clear clearPlan)

/-- Row SHOW_LINE: WRITE_LINE as a host request; it propagates InvalidLineNumber (R99). -/
def execShowLine (text : List Byte) (line : Byte) (s : State) : StepResult :=
  accept .ready s fun t =>
    match writeLinePlan text line with
    | none => raise .invalidLineNumber t
    | some p => .next (t.start (.showLine text line) p)

/-- Row SHOW (R100). Both chunks are captured at acceptance (D16). -/
def execShowBoth (text : List Byte) (s : State) : StepResult :=
  accept .ready s fun t => .next (t.start (.showBoth text) (showPlan text))

/-- Row CONSTRUCT: InvalidPinID before any side effect, or the six handles are bound and the operation
starts; `life` becomes READY with the OK response (R101). -/
def execConstruct (ids : Lines PinId) (s : State) : StepResult :=
  accept .unconstructed s fun t =>
    match resolveAll t.plat ids with
    | none => raise .invalidPinID t
    | some h => .next ({ t with handle := boundLines h }.start (.construct ids) constructPlan)

end Sys2Proof.Machine
end

