-- ==== Sys2Proof/Machine/Strobe.lean ====
section
/-! DEFINITION. The enable-pulse strobe generator: it has this one operation (R80, R84). -/

namespace Sys2Proof.Machine

/-- Row TOGGLE_E (R80). -/
def execToggleE (s : State) : StepResult := runPlan (plain toggleEvents) s

end Sys2Proof.Machine
end

