-- ==== Sys2Proof/Machine/Transmitter.lean ====
section
/-! DEFINITION. The nibble-mode transmitter: DRIVE_NIBBLE, SEND, and the rows that are a SEND of a given
word (R61, R64, R66) or one half of one (R62). Each runs its whole list (log 15). -/

namespace Sys2Proof.Machine

/-- One whole SEND; once it is over VALUE and MODE hold any value (R86, V4). -/
def sendWhole (v : Byte) (m : Bool) (s : State) : StepResult :=
  andThen (runPlan (sendPlan v m) s) fun t => .next t.dropSend

/-- Row DRIVE_NIBBLE (R85). -/
def execDriveNibble (n : Nibble) (s : State) : StepResult := runPlan (plain (nibbleEvents n)) s

/-- Row SEND (R86). -/
def execSend (v : Byte) (m : Bool) (s : State) : StepResult := sendWhole v m s

/-- Row SEND.CMD: mode Command (R61, R86). -/
def execSendCmd (v : Byte) (s : State) : StepResult := sendWhole v modeCmd s

/-- Row SEND.CHR: mode Character (R61, R86). -/
def execSendChr (v : Byte) (s : State) : StepResult := sendWhole v modeChr s

/-- Row INIT0: the 1st byte of INITIALIZE (R64). -/
def execInit0 (s : State) : StepResult := sendWhole 0x33#8 modeCmd s

/-- Row INIT1: the 2nd byte of INITIALIZE (R64). -/
def execInit1 (s : State) : StepResult := sendWhole 0x32#8 modeCmd s

/-- Row INIT2: the 3rd byte of INITIALIZE (R64). -/
def execInit2 (s : State) : StepResult := sendWhole 0x06#8 modeCmd s

/-- Row INIT3: the 4th byte of INITIALIZE (R64). -/
def execInit3 (s : State) : StepResult := sendWhole 0x0C#8 modeCmd s

/-- Row INIT4: the 5th byte of INITIALIZE (R64). -/
def execInit4 (s : State) : StepResult := sendWhole 0x28#8 modeCmd s

/-- Row INIT5, also CLEAR_CMD: the 6th byte of INITIALIZE, and the byte of CLEAR (R64). -/
def execInit5 (s : State) : StepResult := sendWhole clearCmd modeCmd s

/-- Row ADDR_L1: the address byte of line 1 (R64). -/
def execAddrL1 (s : State) : StepResult := sendWhole lineBase1 modeCmd s

/-- Row ADDR_L2: the address byte of line 2 (R64). -/
def execAddrL2 (s : State) : StepResult := sendWhole lineBase2 modeCmd s

/-- Row CHR: a Character byte, its code unchanged (R66). -/
def execChr (c : Byte) (s : State) : StepResult := sendWhole c modeChr s

/-- Row FRAME: the lines hold the frame during one enable pulse (R62; log 14). -/
def execFrame (m : Bool) (n : Nibble) (s : State) : StepResult := runPlan (plain (frameEvents m n)) s

end Sys2Proof.Machine
end

