-- ==== Sys2Proof/Machine/Dispatch.lean ====
section
/-! DEFINITION. One arm per row of spec/opcode_table.json, in the table's order. -/

namespace Sys2Proof.Machine

-- The meaning of each row.
def exec (i : Instr) (s : State) : Host.Outcome State Fault Refusal :=
  match i with
  | .construct ids => Sys2Proof.Machine.execConstruct ids s
  | .clear => Sys2Proof.Machine.execClear s
  | .showLine text line => Sys2Proof.Machine.execShowLine text line s
  | .showBoth text => Sys2Proof.Machine.execShowBoth text s
  | .toggleE => Sys2Proof.Machine.execToggleE s
  | .driveNibble n => Sys2Proof.Machine.execDriveNibble n s
  | .send v m => Sys2Proof.Machine.execSend v m s
  | .initializeLcd => Sys2Proof.Machine.execInitializeLcd s
  | .writeLine text line => Sys2Proof.Machine.execWriteLine text line s
  | .sendCmd v => Sys2Proof.Machine.execSendCmd v s
  | .sendChr v => Sys2Proof.Machine.execSendChr v s
  | .init0 => Sys2Proof.Machine.execInit0 s
  | .init1 => Sys2Proof.Machine.execInit1 s
  | .init2 => Sys2Proof.Machine.execInit2 s
  | .init3 => Sys2Proof.Machine.execInit3 s
  | .init4 => Sys2Proof.Machine.execInit4 s
  | .init5 => Sys2Proof.Machine.execInit5 s
  | .addrL1 => Sys2Proof.Machine.execAddrL1 s
  | .addrL2 => Sys2Proof.Machine.execAddrL2 s
  | .chr c => Sys2Proof.Machine.execChr c s
  | .frame m n => Sys2Proof.Machine.execFrame m n s
  | .set r b => Sys2Proof.Machine.execSet r b s
  | .wait d => Sys2Proof.Machine.execWait d s
  | .cfg r => Sys2Proof.Machine.execCfg r s
  | .ok => Sys2Proof.Machine.execOk s
  | .invalidPinID => Sys2Proof.Machine.execInvalidPinID s
  | .invalidLineNumber => Sys2Proof.Machine.execInvalidLineNumber s

end Sys2Proof.Machine
end

