-- ==== Sys2Proof/WellFormed.lean ====
section
/-! DEFINITION. Well-formed instructions. The types carry every other bound; the one check left is that
a text's length fits its `TEXT_LEN_W` = 16-bit length field (R70; log 6). -/

namespace Sys2Proof

/-- The length of the text fits `TEXT_LEN_W` bits (R70). -/
abbrev TextFits (text : List Byte) : Prop := text.length < 65536

/-- An instruction that has an encoding. -/
def WellFormed (i : Instr) : Prop :=
  match i with
  | .showLine text _ => TextFits text
  | .showBoth text => TextFits text
  | .writeLine text _ => TextFits text
  | .construct _ | .clear | .toggleE | .driveNibble _ | .send _ _ | .initializeLcd
  | .sendCmd _ | .sendChr _ | .init0 | .init1 | .init2 | .init3 | .init4 | .init5
  | .addrL1 | .addrL2 | .chr _ | .frame _ _ | .set _ _ | .wait _ | .cfg _
  | .ok | .invalidPinID | .invalidLineNumber => True

end Sys2Proof
end

