-- ==== Sys2Proof/Decode.lean ====
section
/-! DEFINITION. The decoder, one reading per format of the table, and the encoder written from the same
rules (30_encoding.md). A word of 16 bits is laid out most significant byte first, as
95_test_vectors.md section 2.11 writes it (log 1). The rows of formats INTSEL and EVSEL carry a tag of
the table only, and the places of their operands are the model's (log 2). -/

namespace Sys2Proof

/-- What a decoder answers: an instruction and the bytes after it, or why it reads none. -/
inductive Decoded where
  | instr (i : Instr) (rest : List Byte)
  | refused (r : Reject)
  deriving DecidableEq, Repr

/-- Read a text operand: a length of 16 bits, then that many codes, the first character first (R70). -/
def decodeText (f : List Byte → Instr) (bs : List Byte) : Decoded :=
  match bs with
  | hi :: lo :: rest =>
    if hi.toNat * 256 + lo.toNat ≤ rest.length then
      .instr (f (rest.take (hi.toNat * 256 + lo.toNat))) (rest.drop (hi.toNat * 256 + lo.toNat))
    else .refused .incomplete
  | _ => .refused .incomplete

/-- Read the pin operand of CONSTRUCT: six identifiers in the order RS, E, D4, D5, D6, D7 (R71). -/
def decodePins (bs : List Byte) : Decoded :=
  match bs with
  | rs :: e :: d4 :: d5 :: d6 :: d7 :: rest => .instr (.construct ⟨rs, e, d4, d5, d6, d7⟩) rest
  | _ => .refused .incomplete

/-- Read a host request: header `op` 15:13, `rsv` 12:8, `arg` 7:0, then the operands (R69, R73). -/
def decodeHost (bs : List Byte) : Decoded :=
  match bs with
  | h :: arg :: rest =>
    if 4 ≤ h.toNat / 32 then .refused .reservedOp
    else if h.toNat % 32 ≠ 0 then .refused .reservedRsv
    else if h.toNat / 32 = 2 then decodeText (fun text => .showLine text arg) rest
    else if arg ≠ 0#8 then .refused .reservedArg
    else if h.toNat / 32 = 0 then decodePins rest
    else if h.toNat / 32 = 1 then .instr .clear rest
    else decodeText (fun text => .showBoth text) rest
  | _ => .refused .incomplete

/-- Read a transmit word: bit 8 is the mode, bits 7:0 the value (R61). -/
def decodeTxw (f : Byte → Bool → Instr) (bs : List Byte) : Decoded :=
  match bs with
  | hi :: v :: rest =>
    if hi = 0#8 then .instr (f v false) rest
    else if hi = 1#8 then .instr (f v true) rest
    else .refused .bitsAboveWidth
  | _ => .refused .incomplete

/-- The role with the given number, in the order of `Role` (log 2). -/
def roleOfNat (n : Nat) : Option Role :=
  match n with
  | 0 => some .rs
  | 1 => some .e
  | 2 => some .d4
  | 3 => some .d5
  | 4 => some .d6
  | 5 => some .d7
  | _ => none

/-- Read an internal operation's tag `sel` (R79, D27) and its operands (log 2). -/
def decodeIntsel (bs : List Byte) : Decoded :=
  match bs with
  | [] => .refused .incomplete
  | b :: rest =>
    if b = 0#8 then .instr .toggleE rest
    else if b = 1#8 then
      match rest with
      | n :: rest' => if n.toNat < 16 then .instr (.driveNibble (n.setWidth 4)) rest' else .refused .bitsAboveWidth
      | [] => .refused .incomplete
    else if b = 2#8 then decodeTxw (fun v m => .send v m) rest
    else if b = 3#8 then .instr .initializeLcd rest
    else if b = 4#8 then
      match rest with
      | line :: rest' => decodeText (fun text => .writeLine text line) rest'
      | [] => .refused .incomplete
    else if b.toNat < 8 then .refused .unusedTag
    else .refused .bitsAboveWidth

/-- Read a Command byte: one of the eight the block emits (R64, R74). -/
def decodeCmdbyte (bs : List Byte) : Decoded :=
  match bs with
  | [] => .refused .incomplete
  | b :: rest =>
    if b = 0x33#8 then .instr .init0 rest
    else if b = 0x32#8 then .instr .init1 rest
    else if b = 0x06#8 then .instr .init2 rest
    else if b = 0x0C#8 then .instr .init3 rest
    else if b = 0x28#8 then .instr .init4 rest
    else if b = 0x01#8 then .instr .init5 rest
    else if b = 0x80#8 then .instr .addrL1 rest
    else if b = 0xC0#8 then .instr .addrL2 rest
    else .refused .notACommandByte

/-- Read a Character byte: any code (R66). -/
def decodeChrbyte (bs : List Byte) : Decoded :=
  match bs with
  | [] => .refused .incomplete
  | c :: rest => .instr (.chr c) rest

/-- Read a nibble frame: bit 4 is RS, bits 3:0 are D7..D4 (R62). -/
def decodeNf (bs : List Byte) : Decoded :=
  match bs with
  | [] => .refused .incomplete
  | b :: rest => if b.toNat < 32 then .instr (.frame (b.getLsbD 4) (b.setWidth 4)) rest else .refused .bitsAboveWidth

/-- Read an event's tag `ev` (R79, D27) and its operands (log 2). -/
def decodeEvsel (bs : List Byte) : Decoded :=
  match bs with
  | [] => .refused .incomplete
  | b :: rest =>
    if b.toNat < 3 then
      match rest with
      | [] => .refused .incomplete
      | x :: rest' =>
        if b = 0#8 then
          match roleOfNat (x.toNat / 2) with
          | some r => .instr (.set r (x.getLsbD 0)) rest'
          | none => .refused .noSuchOperand
        else if b = 1#8 then
          if x = 0#8 then .instr (.wait .eDelay) rest'
          else if x = 1#8 then .instr (.wait .ePulse) rest'
          else .refused .noSuchOperand
        else
          match roleOfNat x.toNat with
          | some r => .instr (.cfg r) rest'
          | none => .refused .noSuchOperand
    else if b = 3#8 then .refused .unusedTag
    else .refused .bitsAboveWidth

/-- Read a response code (R72). -/
def decodeResp (bs : List Byte) : Decoded :=
  match bs with
  | [] => .refused .incomplete
  | b :: rest =>
    if b = 0#8 then .instr .ok rest
    else if b = 1#8 then .instr .invalidPinID rest
    else if b = 2#8 then .instr .invalidLineNumber rest
    else if b = 3#8 then .refused .noSuchResponse
    else .refused .bitsAboveWidth

/-- The decoder of the table: a word is read in its format, since words of different formats overlap
(R79). The host port is read in the format HOSTREQ and no other. -/
def decode (f : Format) (bs : List Byte) : Decoded :=
  match f with
  | .hostreq => decodeHost bs
  | .intsel => decodeIntsel bs
  | .txw => decodeTxw (fun v m => if m then .sendChr v else .sendCmd v) bs
  | .cmdbyte => decodeCmdbyte bs
  | .chrbyte => decodeChrbyte bs
  | .nf => decodeNf bs
  | .evsel => decodeEvsel bs
  | .resp => decodeResp bs

/-- The format of an instruction's row (R79). -/
def formatOf (i : Instr) : Format :=
  match i with
  | .construct _ => .hostreq
  | .clear => .hostreq
  | .showLine _ _ => .hostreq
  | .showBoth _ => .hostreq
  | .toggleE => .intsel
  | .driveNibble _ => .intsel
  | .send _ _ => .intsel
  | .initializeLcd => .intsel
  | .writeLine _ _ => .intsel
  | .sendCmd _ => .txw
  | .sendChr _ => .txw
  | .init0 => .cmdbyte
  | .init1 => .cmdbyte
  | .init2 => .cmdbyte
  | .init3 => .cmdbyte
  | .init4 => .cmdbyte
  | .init5 => .cmdbyte
  | .addrL1 => .cmdbyte
  | .addrL2 => .cmdbyte
  | .chr _ => .chrbyte
  | .frame _ _ => .nf
  | .set _ _ => .evsel
  | .wait _ => .evsel
  | .cfg _ => .evsel
  | .ok => .resp
  | .invalidPinID => .resp
  | .invalidLineNumber => .resp

/-- A text operand: its length in 16 bits, then its codes (R70). -/
def encodeText (text : List Byte) : List Byte :=
  BitVec.ofNat 8 (text.length / 256) :: BitVec.ofNat 8 (text.length % 256) :: text

/-- The number of a role (log 2). -/
def natOfRole (r : Role) : Nat :=
  match r with
  | .rs => 0
  | .e => 1
  | .d4 => 2
  | .d5 => 3
  | .d6 => 4
  | .d7 => 5

/-- A level or a mode as a byte (R7). -/
def byteOfBool (b : Bool) : Byte := if b then 1#8 else 0#8

/-- The bytes of an instruction, in the format of its row. -/
def encode (i : Instr) : List Byte :=
  match i with
  | .construct ids => [0x00#8, 0x00#8, ids.rs, ids.e, ids.d4, ids.d5, ids.d6, ids.d7]
  | .clear => [0x20#8, 0x00#8]
  | .showLine text line => 0x40#8 :: line :: encodeText text
  | .showBoth text => 0x60#8 :: 0x00#8 :: encodeText text
  | .toggleE => [0#8]
  | .driveNibble n => [1#8, n.setWidth 8]
  | .send v m => [2#8, byteOfBool m, v]
  | .initializeLcd => [3#8]
  | .writeLine text line => 4#8 :: line :: encodeText text
  | .sendCmd v => [0#8, v]
  | .sendChr v => [1#8, v]
  | .init0 => [0x33#8]
  | .init1 => [0x32#8]
  | .init2 => [0x06#8]
  | .init3 => [0x0C#8]
  | .init4 => [0x28#8]
  | .init5 => [0x01#8]
  | .addrL1 => [0x80#8]
  | .addrL2 => [0xC0#8]
  | .chr c => [c]
  | .frame m n => [BitVec.ofNat 8 (n.toNat + if m then 16 else 0)]
  | .set r b => [0#8, BitVec.ofNat 8 (2 * natOfRole r + if b then 1 else 0)]
  | .wait d => [1#8, match d with | .eDelay => 0#8 | .ePulse => 1#8]
  | .cfg r => [2#8, BitVec.ofNat 8 (natOfRole r)]
  | .ok => [0#8]
  | .invalidPinID => [1#8]
  | .invalidLineNumber => [2#8]

/-- The width the table gives a format's rows. -/
def formatBits (f : Format) : Nat :=
  match f with
  | .hostreq => 16
  | .intsel => 3
  | .txw => 9
  | .cmdbyte => 8
  | .chrbyte => 8
  | .nf => 5
  | .evsel => 2
  | .resp => 2

/-- The formats, in the order of the table. -/
def allFormats : List Format := [.hostreq, .intsel, .txw, .cmdbyte, .chrbyte, .nf, .evsel, .resp]

/-- The bytes of a table word of `nbits` bits, most significant byte first, then operand words of zeros. -/
def tableBytes (nbits w : Nat) : List Byte :=
  (if nbits ≤ 8 then [BitVec.ofNat 8 w] else [BitVec.ofNat 8 (w / 256), BitVec.ofNat 8 w]) ++ List.replicate 8 0#8

/-- Read a table word in one format. -/
def decodeAs (f : Format) (bs : List Byte) : Option Instr :=
  match decode f bs with
  | .instr i _ => some i
  | .refused _ => none

/-- The instruction read from a table word that comes without its format: the first format of the table,
in the table's own order, that has this width (in bits or in whole bytes) and reads the word (log 2). -/
def decodeTableWord (nbits w : Nat) : Option Instr :=
  (allFormats.filter fun f => formatBits f = nbits ∨ (formatBits f + 7) / 8 * 8 = nbits).findSome?
    fun f => decodeAs f (tableBytes nbits w)

end Sys2Proof
end

