-- ==== Sys2Proof/Machine/Fetch.lean ====
section
/-! DEFINITION. What the next step runs: the reset input, the host request at the port, the event at the
sequencer position, or the end of the running operation (R95, R113, R140). And where an instruction of the
table is placed so that the next step runs it (log 4). -/

namespace Sys2Proof.Machine

/-- What the next step does. -/
inductive Fetched where
  /-- The reset input is asserted. -/
  | reset
  /-- The block is idle and the host sends nothing: it waits (R136). -/
  | idle
  /-- The block is idle and the host sends its next request: it is at the port in this state (R115; log 24). -/
  | sent (s : State)
  /-- Run this instruction at this state. -/
  | instr (i : Instr) (s : State)
  /-- The request at the port has a reserved encoding (R73). -/
  | reserved (why : Reject)
  deriving DecidableEq, Repr

/-- Take the position of a running operation: the transfers that come with its event are made and `k`
advances by 1 (R21, R113). -/
def State.advance (s : State) (r : Running) (m : Micro) : State :=
  { s with cur := some { r with k := r.k + 1 } }.transfers m.pre

/-- The next step while no whole request is at the port: a busy block performs the event at its position or
ends its operation (R113); of an idle one the host sends the next request of its program, if it has one and
nothing of another is at the port (R115; log 24). -/
def State.proceed (s : State) : Fetched :=
  match s.cur with
  | some r =>
    match r.plan[r.k]? with
    | some m => .instr (instrOfEvent m.event) (s.advance r m)
    | none => .instr .ok s
  | none =>
    match s.hostIn, s.program with
    | [], q :: later => .sent { s with hostIn := q, program := later }
    | [], [] => .idle
    | _ :: _, _ => .idle

/-- The next step. A whole request at the port is looked at in every state, so that one sent to a busy block is
refused (R95, C8): accept refuses it. -/
def State.fetch (s : State) : Fetched :=
  if s.rst then .reset
  else
    match s.unitCall with
    | some i => .instr i { s with unitCall := none }
    | none =>
      match decode .hostreq s.hostIn with
      | .instr i rest => .instr i { s with hostIn := rest }
      | .refused .incomplete => s.proceed
      | .refused why => .reserved why

/-- The state as a CONSTRUCT that returned OK leaves its lines: six handles bound, six outputs, the levels
that INITIALIZE leaves, READY (R96, R101). A block that is READY already is left alone (log 4). -/
def State.asConstructed (s : State) : State :=
  if s.life = .ready then s
  else
    { s with
      life := .ready
      handle := boundLines ⟨0, 1, 2, 3, 4, 5⟩
      dir := allLines .output
      level := ⟨.low, .low, .high, .low, .low, .low⟩ }

/-- Lay a request on the port of an idle block. -/
def State.atPort (s : State) (i : Instr) : State :=
  { s with rst := false, unitCall := none, cur := none, hostIn := encode i }

/-- Present a row that is not a host request to an idle block. -/
def State.atUnit (s : State) (i : Instr) : State :=
  { s with rst := false, unitCall := some i, cur := none }

/-- Place an instruction so that the very next step runs it, with the lifecycle in which it can run (log 4). -/
def State.place (s : State) (i : Instr) : State :=
  match i with
  | .construct _ => { s.atPort i with life := .unconstructed }
  | .clear | .showLine _ _ | .showBoth _ => s.asConstructed.atPort i
  | .toggleE | .driveNibble _ | .send _ _ | .initializeLcd | .writeLine _ _ | .sendCmd _ | .sendChr _
  | .init0 | .init1 | .init2 | .init3 | .init4 | .init5 | .addrL1 | .addrL2 | .chr _ | .frame _ _
  | .set _ _ | .wait _ | .cfg _ => s.asConstructed.atUnit i
  | .ok => { s.asConstructed.atUnit i with cur := some { op := .clear, plan := [], k := 0 } }
  | .invalidPinID | .invalidLineNumber => s.atUnit i

/-- Place a table word; one that no format reads is laid on the host port as it is. -/
def State.placeWord (s : State) (nbits w : Nat) : State :=
  match decodeTableWord nbits w with
  | some i => s.place i
  | none => { s with rst := false, unitCall := none, cur := none, hostIn := tableBytes nbits w }

end Sys2Proof.Machine
end

