-- ==== Sys2Proof/Machine/Step.lean ====
section
/-! DEFINITION. One step of the block (R113), and where the host's probe places an instruction (log 4). -/

namespace Sys2Proof.Machine

/-- One step: the reset, the wait for a request, the host's sending one, or one instruction (R95, R113, R115,
R140). -/
def step (s : State) : Host.Outcome State Fault Refusal :=
  match s.fetch with
  | .reset => .next s.applyReset
  | .idle => .next s
  | .sent t => .next t
  | .instr i t => exec i t
  | .reserved why => .refused (.reservedRequest why)

/-- The state with a table word stored where the next step takes its instruction from (log 4). -/
def State.withFetchWord (s : State) (nbits w : Nat) : State := s.placeWord nbits w

end Sys2Proof.Machine
end

