-- ==== Sys2Proof/Machine/Observe.lean ====
section
/-! DEFINITION. What an observer on the six lines sees: `Strobes` and `Bytes` (R54, R55), the levels a trace
leaves, and the automaton of the waveform rules (R144 to R147). They read a trace only. -/

namespace Sys2Proof.Machine

/-- The levels after one more event: updated by SET, `X` by CFG, unchanged by WAIT (R54, R32 to R34). -/
def levelsStep (l : Lines Level) (e : Event) : Lines Level :=
  match e with
  | .set r b => setLine l r (levelOfBool b)
  | .wait _ => l
  | .cfg r => setLine l r .x

/-- The levels after a trace. -/
def levelsAfter (l : Lines Level) (t : List Event) : Lines Level := t.foldl levelsStep l

/-- The pair `(level[RS], {level[D7], level[D6], level[D5], level[D4]})`; none when a level is `X` (R54). -/
def sampleFrame (l : Lines Level) : Option (Bool × Nibble) := do
  let m ← l.rs.toBool?
  let b7 ← l.d7.toBool?
  let b6 ← l.d6.toBool?
  let b5 ← l.d5.toBool?
  let b4 ← l.d4.toBool?
  some (m, BitVec.ofBool b7 ++ BitVec.ofBool b6 ++ BitVec.ofBool b5 ++ BitVec.ofBool b4)

/-- The event ends a strobe: a `SET(E, 0)` whose running `level[E]` just before it is 1 (R54). -/
def endsStrobe (l : Lines Level) (e : Event) : Bool :=
  match e with
  | .set .e false => l.e = .high
  | .set _ _ | .wait _ | .cfg _ => false

/-- `Strobes` of a trace that starts at the given levels; none when a sampled level is `X` (R54). -/
def strobesFrom (l : Lines Level) (t : List Event) : Option (List (Bool × Nibble)) :=
  match t with
  | [] => some []
  | e :: rest =>
    if endsStrobe l e then do
      let p ← sampleFrame l
      let ps ← strobesFrom (levelsStep l e) rest
      some (p :: ps)
    else strobesFrom (levelsStep l e) rest

/-- `Strobes(trace)`: all levels are `X` at the start (R54). -/
def strobes (t : List Event) : Option (List (Bool × Nibble)) := strobesFrom (allLines .x) t

/-- Pair the strobes in order; none when their number is odd or the modes of a pair differ (R55). -/
def pairStrobes (ps : List (Bool × Nibble)) : Option (List (Bool × Byte)) :=
  match ps with
  | [] => some []
  | [_] => none
  | p :: q :: rest =>
    if p.1 = q.1 then (pairStrobes rest).map fun bs => (p.1, joinNibbles p.2 q.2) :: bs else none

/-- `Bytes(trace)` (R55). -/
def bytesOf (t : List Event) : Option (List (Bool × Byte)) := (strobes t).bind pairStrobes

/-- How many waits a list of events holds (R112). -/
def waitCount (t : List Event) : Nat :=
  (t.filter fun e => match e with | .wait _ => true | .set _ _ => false | .cfg _ => false).length

/-- The sum of the waits in microseconds, a lower bound on the real time (R157). -/
def waitMicros (t : List Event) : Nat :=
  (t.map fun e => match e with | .wait d => delayMicros d | .set _ _ => 0 | .cfg _ => 0).sum

/-- Where a trace stands in the waveform of one byte. -/
inductive Phase where
  /-- Outside a byte, or between its two nibbles, the low phase complete. -/
  | rest
  /-- RS is written and no data line yet. -/
  | selected
  /-- One nibble is being driven, by one DRIVE_NIBBLE. -/
  | driven
  /-- The settle wait has passed. -/
  | armed
  /-- E is high and its pulse wait has not passed. -/
  | high
  /-- E is high and its pulse wait has passed. -/
  | pulsed
  /-- E has fallen and the low phase has not passed. -/
  | fallen
  deriving DecidableEq, Repr

/-- The phase, and whether the first nibble of the byte is complete. -/
structure Wave where
  phase : Phase
  half  : Bool
  deriving DecidableEq, Repr

/-- The waveform rules R144 to R147 as a transition: none is a violation. RS is written once, at the start of
a byte; one DRIVE_NIBBLE follows, which starts with `SET(D4,0)` and no other write of it is that; then the settle
wait, E high, the pulse wait, E low, the low-phase wait. Between bytes, and only there, an extra settle wait (R96)
or a CFG (R101) may stand. -/
def waveStep (w : Wave) (e : Event) : Option Wave :=
  match w.phase, e with
  | .rest, .set r b =>
    match r with
    | .rs => if w.half then none else some { w with phase := .selected }
    | .d4 => if w.half && !b then some { w with phase := .driven } else none
    | .e | .d5 | .d6 | .d7 => none
  | .rest, .wait .eDelay => if w.half then none else some w
  | .rest, .wait .ePulse => none
  | .rest, .cfg _ => if w.half then none else some w
  | .selected, .set .d4 false => some { w with phase := .driven }
  | .selected, _ => none
  | .driven, .set r b =>
    match r with
    | .d4 => if b then some w else none
    | .d5 | .d6 | .d7 => some w
    | .rs | .e => none
  | .driven, .wait .eDelay => some { w with phase := .armed }
  | .driven, .wait .ePulse => none
  | .driven, .cfg _ => none
  | .armed, .set .e true => some { w with phase := .high }
  | .armed, _ => none
  | .high, .wait .ePulse => some { w with phase := .pulsed }
  | .high, _ => none
  | .pulsed, .set .e false => some { w with phase := .fallen }
  | .pulsed, _ => none
  | .fallen, .wait .eDelay => some { phase := .rest, half := !w.half }
  | .fallen, _ => none

/-- Run the waveform automaton over a trace. -/
def waveFrom (w : Wave) (t : List Event) : Option Wave := t.foldlM waveStep w

/-- The automaton's start, and where every whole byte leaves it. -/
def waveStart : Wave := { phase := .rest, half := false }

end Sys2Proof.Machine
end

