-- ==== Sys2Proof/Safety.lean ====
section
/-! DEFINITION. What holds in every state the block reaches from reset (R31), in the terms the statements use. -/

namespace Sys2Proof.Machine

/-- The latches and the directions are what the trace made them: `level[r]` is the value last written, `X`
from CFG to the first SET (R14), and `dir[r]` is OUTPUT exactly after `CFG(r)` (R13). -/
def LinesFollowTrace (s : State) : Prop :=
  s.level = levelsAfter s.plat.pinReset s.pinTrace ∧
    ∀ r, getLine s.dir r = .output ↔ Event.cfg r ∈ s.pinTrace

/-- The Command bytes the block emits, and no other (R64, R74). -/
def commandBytes : List Byte := initSeq ++ [lineBase1, lineBase2]

/-- A trace between two operations: whole bytes, each Command byte one of the eight; nothing before
construction, and after it the events of the one construction, then no further CFG, E low at the end. -/
def TraceWhole (life : Life) (t : List Event) : Prop :=
  (∃ bs, bytesOf t = some bs ∧ ∀ v, (false, v) ∈ bs → v ∈ commandBytes) ∧
    waveFrom waveStart t = some waveStart ∧
    match life with
    | .unconstructed => t = []
    | .ready =>
      (∃ more, t = planEvents constructPlan ++ more ∧ ∀ r, Event.cfg r ∉ more) ∧
        (levelsAfter (allLines .x) t).e = .low

/-- What a host operation runs once it is accepted and has passed its validation, and in which lifecycle. -/
def acceptedPlan (p : Platform) (i : Instr) : Option (Life × List Micro) :=
  match i with
  | .construct ids => (resolveAll p ids).map fun _ => (.unconstructed, constructPlan)
  | .clear => some (.ready, clearPlan)
  | .showLine text line => (writeLinePlan text line).map fun ms => (.ready, ms)
  | .showBoth text => some (.ready, showPlan text)
  | .toggleE | .driveNibble _ | .send _ _ | .initializeLcd | .writeLine _ _ | .sendCmd _ | .sendChr _
  | .init0 | .init1 | .init2 | .init3 | .init4 | .init5 | .addrL1 | .addrL2 | .chr _ | .frame _ _
  | .set _ _ | .wait _ | .cfg _ | .ok | .invalidPinID | .invalidLineNumber => none

/-- Idle: the trace is whole; the six handles are all bound when READY and all none before. -/
def IdleOk (s : State) : Prop :=
  TraceWhole s.life s.pinTrace ∧
    match s.life with
    | .unconstructed => s.handle = allLines none
    | .ready => ∀ r, (getLine s.handle r).isSome

/-- Busy: the operation was accepted in this lifecycle with this list, `k` of its events are performed after a
whole trace, and the six handles are bound. -/
def BusyOk (s : State) (r : Running) : Prop :=
  acceptedPlan s.plat r.op = some (s.life, r.plan) ∧ r.k ≤ r.plan.length ∧
    (∀ q, (getLine s.handle q).isSome) ∧
    ∃ before, TraceWhole s.life before ∧ s.pinTrace = before ++ (planEvents r.plan).take r.k

/-- The invariant of the block: what every step from reset keeps (R31 and what it rests on). -/
def Inv (s : State) : Prop :=
  s.unitCall = none ∧ LinesFollowTrace s ∧
    match s.cur with
    | none => IdleOk s
    | some r => BusyOk s r

/-- `n` steps from a state, as the host takes them: it stops at the first stop. -/
def runSteps (n : Nat) (s : State) : StepResult := Host.Core.run Sys2Proof.core n s

/-- No input but the host's requests is at work: the reset input is not asserted and no table row is presented. -/
def Quiet (s : State) : Prop := s.rst = false ∧ s.unitCall = none

/-- No whole request is at the port: what a host that keeps R115 leaves there while it is blocked. -/
def NoRequest (s : State) : Prop := decode .hostreq s.hostIn = .refused .incomplete

/-- The six lines are outputs, as after every construction (R31 a). -/
def AllOutputs (s : State) : Prop := s.dir = allLines .output

/-- The block is idle and READY: it accepts CLEAR, SHOW_LINE and SHOW (R95). -/
def IdleReady (s : State) : Prop := s.cur = none ∧ s.life = .ready

/-- The block is idle and UNCONSTRUCTED: it accepts CONSTRUCT (R95). -/
def IdleUnconstructed (s : State) : Prop := s.cur = none ∧ s.life = .unconstructed

/-- A host request whose header is reserved: `op` 4 to 7, or `rsv` not 0, or `arg` not 0 with `op` 0, 1 or 3 (R73). -/
def ReservedHeader (h arg : Byte) : Prop :=
  4 ≤ h.toNat / 32 ∨ h.toNat % 32 ≠ 0 ∨ (arg ≠ 0#8 ∧ h.toNat / 32 ≠ 2)

/-- The rows of format HOSTREQ: what the host can request (R60). -/
def IsHostOp (i : Instr) : Prop := formatOf i = .hostreq

/-- A step's answer with its next state seen through `f`. -/
def mapNext (f : State → State) (o : StepResult) : StepResult := andThen o fun s => .next (f s)

/-- All but the diagnostic channel: DIAGTRACE and `DIAG_ENABLE` (R102). -/
def withoutDiag (s : State) : State := { s with diagTrace := [], plat := { s.plat with diagEnable := false } }

/-- All but the registers that no rule reads back: VALUE, MODE, LINE, TL, TIMER, and the count of free values (R30, V4). -/
def withoutOperands (s : State) : State :=
  { s with value := 0#8, mode := false, line := 0#8, tl := Vector.replicate 16 0#8, timer := 0, draws := 0 }

/-- The block's six Command bytes of INITIALIZE as `Bytes` shows them (R103). -/
def initBytes : List (Bool × Byte) := initSeq.map fun v => (false, v)

/-- A line write as `Bytes` shows it: the address byte, then the 16 normalised codes (R104). -/
def lineBytes (text : List Byte) (base : Byte) : List (Bool × Byte) :=
  (false, base) :: (normText text).toList.map fun c => (true, c)

/-- The texts a diagnostic channel gets, when it is enabled (R102). -/
def diagEntries (p : Platform) (texts : List (List Byte)) : List (List Byte) :=
  if p.diagEnable then texts else []

/-- The size of a list of events: its events, its waits, the sum of its waits in microseconds (R112, R157). -/
def sizes (es : List Event) : Nat × Nat × Nat := (es.length, waitCount es, waitMicros es)

/-- `P(s)`, the sum of `popcount` over the codes of a list (R112). -/
def popcounts (cs : List Byte) : Nat := (cs.map popcount).sum

end Sys2Proof.Machine
end

