-- ==== Sys2Proof/Certificates/Slice0/Obligations.lean ====
section
/-! DEFINITION. The statements for the provers. Each docstring names the rule it formalises; "log n" is
notes/assumptions/n.md. -/

open Sys2Proof Sys2Proof.Machine

/-! ## Reset, events, the six lines -/

/-- R30, R140 (decisions D4, D18): every piece of state the spec gives a value has it after reset; the six levels
are `PIN_RESET_LEVEL`, which is its default X on the platform that reset has (log 5). -/
def Obligations.ResetLeavesUnconstructedIdle : Prop :=
  State.reset.handle = allLines none ∧ State.reset.dir = allLines .unconfigured ∧
    State.reset.level = allLines .x ∧ State.reset.life = .unconstructed ∧ State.reset.cur = none ∧
    State.reset.pinTrace = [] ∧ State.reset.diagTrace = [] ∧ State.reset.resp = []

/-- R140, R141 (decision D18): a step with the reset input asserted puts every piece of state at its reset
value from any state, also in the middle of an operation, performs no event, and leaves the platform, the
host's port and its program alone (log 12). -/
def Obligations.ResetInputDiscardsTheRunningOperation : Prop :=
  ∀ s : State, s.rst = true → ∃ t, step s = .next t ∧
    t.handle = allLines none ∧ t.dir = allLines .unconfigured ∧ t.level = s.plat.pinReset ∧
    t.life = .unconstructed ∧ t.cur = none ∧ t.pinTrace = [] ∧ t.diagTrace = [] ∧ t.resp = [] ∧
    t.rst = false ∧ t.unitCall = none ∧ t.plat = s.plat ∧ t.hostIn = s.hostIn ∧ t.program = s.program

/-- R32: `SET(r, b)` on an output writes the latch, whatever level it held, is appended to PINTRACE, and
changes nothing else. -/
def Obligations.SetWritesTheLatch : Prop :=
  ∀ (r : Role) (b : Bool) (s : State), getLine s.dir r = .output →
    exec (.set r b) s = .next { s with
      level := setLine s.level r (if b then .high else .low)
      pinTrace := s.pinTrace ++ [.set r b] }

/-- R33 (decision D13): `WAIT(d)` changes no state but TIMER, whose value is open, and is appended to
PINTRACE under its name; both durations are 500 µs. -/
def Obligations.WaitChangesOnlyTheTimer : Prop :=
  (∀ (d : Delay) (s : State), ∃ n, exec (.wait d) s =
    .next { s with timer := n, pinTrace := s.pinTrace ++ [.wait d] }) ∧ ∀ d, delayMicros d = 500

/-- R34 (decisions D4, D15): `CFG(r)` on a bound line makes it an output whose latch holds no value, is
appended to PINTRACE, and changes nothing else. -/
def Obligations.CfgMakesTheLineAnOutput : Prop :=
  ∀ (r : Role) (s : State), (getLine s.handle r).isSome →
    exec (.cfg r) s = .next { s with
      dir := setLine s.dir r .output
      level := setLine s.level r .x
      pinTrace := s.pinTrace ++ [.cfg r] }

/-- R13, R14: every step keeps the latches and the directions what the trace made them. -/
def Obligations.LinesFollowTraceEveryStep : Prop :=
  ∀ s t : State, LinesFollowTrace s → step s = .next t → LinesFollowTrace t

/-- R12: a step that is no reset writes the handles only by accepting a CONSTRUCT whose six identifiers all
resolve, to six different pins, and then all six at once; in a READY block never. -/
def Obligations.OnlyConstructWritesHandles : Prop :=
  ∀ s t : State, s.rst = false → step s = .next t → t.handle ≠ s.handle →
    s.life = .unconstructed ∧ ∃ ids h, resolveAll s.plat ids = some h ∧ t.handle = boundLines h ∧
      t.cur = some { op := .construct ids, plan := constructPlan, k := 0 }

/-- R20 (decision D5): `life` is written only by the end of a CONSTRUCT, with its OK response, and by reset. -/
def Obligations.LifeChangesOnlyAtConstructOk : Prop :=
  ∀ s t : State, s.rst = false → step s = .next t → t.life ≠ s.life →
    t.life = .ready ∧ t.resp = s.resp ++ [.ok] ∧ t.cur = none ∧
      ∃ r ids, s.cur = some r ∧ r.op = .construct ids ∧ r.plan.length ≤ r.k

/-- R19 (the platform's parameters, log 5): no step changes a parameter. -/
def Obligations.PlatformIsFixed : Prop := ∀ s t : State, step s = .next t → t.plat = s.plat

/-- R27, R72 (decisions D9, D12, D23): without a reset the three output streams only grow, at the end, and
a step posts at most one response. -/
def Obligations.OutputStreamsOnlyGrow : Prop :=
  ∀ s t : State, s.rst = false → step s = .next t →
    (∃ es, t.pinTrace = s.pinTrace ++ es) ∧ (∃ ds, t.diagTrace = s.diagTrace ++ ds) ∧
      (t.resp = s.resp ∨ ∃ r, t.resp = s.resp ++ [r])

/-- R30, V4: no rule reads VALUE, MODE, LINE, TL or TIMER back, so that what they hold, a free value outside
the operation that loaded them (log 7, log 8), reaches nothing else. -/
def Obligations.OperandRegistersReachNothingElse : Prop :=
  ∀ s t : State, withoutOperands s = withoutOperands t →
    mapNext withoutOperands (step s) = mapNext withoutOperands (step t)

/-- R102 (decision D12): the diagnostic channel and `DIAG_ENABLE` reach nothing else: PINTRACE, RESP and the
whole rest of the state are the same for both values. -/
def Obligations.DiagnosticsReachNothingElse : Prop :=
  ∀ s t : State, withoutDiag s = withoutDiag t →
    mapNext withoutDiag (step s) = mapNext withoutDiag (step t)

/-! ## Encodings and operands -/

/-- Decoding an encoded well-formed instruction in the format of its row gives it back, whatever follows it
(30_encoding.md; the operands of INTSEL and EVSEL rows are the model's, log 2). -/
def Obligations.DecodeOfEncode : Prop :=
  ∀ (i : Instr) (rest : List Byte), WellFormed i → decode (formatOf i) (encode i ++ rest) = .instr i rest

/-- Words written out from 95_test_vectors.md section 2.11 and from the tables of R61, R62, R64 and R72
decode to what they stand for. -/
def Obligations.WrittenOutWordsDecode : Prop :=
  decode .hostreq [0x00#8, 0x00#8, 0x1A#8, 0x13#8, 0x0D#8, 0x06#8, 0x05#8, 0x0B#8] =
      .instr (.construct ⟨26#8, 19#8, 13#8, 6#8, 5#8, 11#8⟩) [] ∧
    decode .hostreq [0x20#8, 0x00#8] = .instr .clear [] ∧
    decode .hostreq [0x40#8, 0x03#8, 0x00#8, 0x05#8, 0x48#8, 0x45#8, 0x4C#8, 0x4C#8, 0x4F#8] =
      .instr (.showLine [0x48#8, 0x45#8, 0x4C#8, 0x4C#8, 0x4F#8] 3#8) [] ∧
    decode .hostreq [0x60#8, 0x00#8, 0x00#8, 0x02#8, 0x48#8, 0x49#8] = .instr (.showBoth [0x48#8, 0x49#8]) [] ∧
    decode .txw [0x01#8, 0x48#8] = .instr (.sendChr 0x48#8) [] ∧
    decode .cmdbyte [0xC0#8] = .instr .addrL2 [] ∧
    decode .nf [0x14#8] = .instr (.frame true 4#4) [] ∧
    decode .resp [0x02#8] = .instr .invalidLineNumber []

/-- R73 (decision D22; how a step names it, log 9), with the header's bytes at the port in the order that the
model chose (log 1): a whole header at the port, of an idle or a busy block, is refused as reserved exactly
when it is one of the reserved encodings. -/
def Obligations.ReservedRequestsAreRefused : Prop :=
  ∀ (s : State) (h arg : Byte) (rest : List Byte), Quiet s → s.hostIn = h :: arg :: rest →
    (ReservedHeader h arg ↔ ∃ why, step s = .refused (.reservedRequest why))

/-- R63: `hi = v[7:4]`, `lo = v[3:0]`, `v = {hi, lo} = hi × 16 + lo`. R65: `Base(line)` is 0x80 for line 1, 0xC0
for line 2, and undefined otherwise. -/
def Obligations.NibblesAndLineBase : Prop :=
  (∀ v : Byte, (∀ i, i < 4 →
      (highNibble v).getLsbD i = v.getLsbD (4 + i) ∧ (lowNibble v).getLsbD i = v.getLsbD i) ∧
    joinNibbles (highNibble v) (lowNibble v) = v ∧
    v.toNat = (highNibble v).toNat * 16 + (lowNibble v).toNat) ∧
  lineBase 1#8 = some 0x80#8 ∧ lineBase 2#8 = some 0xC0#8 ∧
    ∀ line : Byte, line ≠ 1#8 → line ≠ 2#8 → lineBase line = none

/-- R67 (`SPACE` = 0x20 is the spec's decision D10, log 17): code `i` of the normalised text is code `i` of the
text, and `SPACE` from its end to position 15. R68 (decision D11, log 19): the chunks of SHOW are the characters
0 to 15 and 16 to 31; a text of at most 16 has an empty second chunk. -/
def Obligations.TextsArePaddedCutAndSplit : Prop :=
  (∀ (text : List Byte) (i : Nat) (hi : i < 16),
    (normText text)[i] = if h : i < text.length then text[i] else 0x20#8) ∧
  ∀ text : List Byte, (∀ i, i < 16 → (chunk1 text)[i]? = text[i]? ∧ (chunk2 text)[i]? = text[16 + i]?) ∧
    (chunk1 text).length ≤ 16 ∧ (chunk2 text).length ≤ 16 ∧ (text.length ≤ 16 → chunk2 text = [])

/-! ## The strobe generator and the transmitter -/

/-- R80: TOGGLE_E is always these five events; E is low after it whatever it was before; no other line, and
nothing else but TIMER, is changed. -/
def Obligations.ToggleMakesOnePulse : Prop :=
  ∀ s : State, s.dir.e = .output → ∃ n, exec .toggleE s = .next { s with
    level := { s.level with e := .low }
    timer := n
    pinTrace := s.pinTrace ++
      [.wait .eDelay, .set .e true, .wait .ePulse, .set .e false, .wait .eDelay] }

/-- R44: after the high nibble is driven the lines D4 to D7 hold bits 4 to 7 of the value, after the low nibble
bits 0 to 3; a set bit is a high level. Nothing else is changed but PINTRACE. -/
def Obligations.DrivenNibbleIsOnTheDataLines : Prop :=
  ∀ (v : Byte) (s : State), AllOutputs s →
    exec (.driveNibble (highNibble v)) s = .next { s with
      level := { s.level with
        d4 := if v.getLsbD 4 then .high else .low
        d5 := if v.getLsbD 5 then .high else .low
        d6 := if v.getLsbD 6 then .high else .low
        d7 := if v.getLsbD 7 then .high else .low }
      pinTrace := s.pinTrace ++ nibbleEvents (highNibble v) } ∧
    exec (.driveNibble (lowNibble v)) s = .next { s with
      level := { s.level with
        d4 := if v.getLsbD 0 then .high else .low
        d5 := if v.getLsbD 1 then .high else .low
        d6 := if v.getLsbD 2 then .high else .low
        d7 := if v.getLsbD 3 then .high else .low }
      pinTrace := s.pinTrace ++ nibbleEvents (lowNibble v) }

/-- R85 (the order inside a group is decision D3): DRIVE_NIBBLE completes for every nibble on four data lines
that are outputs, with all four resets first and then the set bits. -/
def Obligations.DriveNibbleResetsThenSets : Prop :=
  ∀ (n : Nibble) (s : State),
    s.dir.d4 = .output → s.dir.d5 = .output → s.dir.d6 = .output → s.dir.d7 = .output →
    exec (.driveNibble n) s = .next { s with
      level := { s.level with
        d4 := if n.getLsbD 0 then .high else .low
        d5 := if n.getLsbD 1 then .high else .low
        d6 := if n.getLsbD 2 then .high else .low
        d7 := if n.getLsbD 3 then .high else .low }
      pinTrace := s.pinTrace ++ ([.set .d4 false, .set .d5 false, .set .d6 false, .set .d7 false] ++
        (if n.getLsbD 0 then [Event.set .d4 true] else []) ++ (if n.getLsbD 1 then [Event.set .d5 true] else []) ++
        (if n.getLsbD 2 then [Event.set .d6 true] else []) ++ (if n.getLsbD 3 then [Event.set .d7 true] else [])) }

/-- R86: SEND emits RS, the high nibble, a pulse, the low nibble, a pulse; it leaves RS at the mode, E low and
the low nibble on the data lines, and changes nothing else but VALUE, MODE and TIMER. -/
def Obligations.SendTransmitsHighThenLow : Prop :=
  ∀ (v : Byte) (m : Bool) (s : State), AllOutputs s → ∃ t, exec (.send v m) s = .next t ∧
    t = { s with
      level := ⟨if m then .high else .low, .low, if v.getLsbD 0 then .high else .low,
        if v.getLsbD 1 then .high else .low, if v.getLsbD 2 then .high else .low,
        if v.getLsbD 3 then .high else .low⟩
      pinTrace := s.pinTrace ++ ([.set .rs m] ++ nibbleEvents (highNibble v) ++ toggleEvents ++
        nibbleEvents (lowNibble v) ++ toggleEvents)
      value := t.value, mode := t.mode, timer := t.timer, draws := t.draws }

/-- R61, R64, R66: the rows of the transmit word, of the eight Command bytes and of the Character byte complete,
each as the SEND of its mode and byte. -/
def Obligations.WordRowsAreSends : Prop :=
  ∀ s : State, AllOutputs s → ∀ (c : Byte), ∀ p ∈
    [(Instr.sendCmd c, c, false), (.sendChr c, c, true), (.chr c, c, true),
     (.init0, 0x33#8, false), (.init1, 0x32#8, false), (.init2, 0x06#8, false), (.init3, 0x0C#8, false),
     (.init4, 0x28#8, false), (.init5, 0x01#8, false), (.addrL1, 0x80#8, false), (.addrL2, 0xC0#8, false)],
    ∃ t, exec p.1 s = .next t ∧ exec (.send p.2.1 p.2.2) s = .next t ∧
      t.pinTrace = s.pinTrace ++ sendEvents p.2.1 p.2.2

/-- R62 as the model runs it (log 14): the frame's five levels are put on their lines and marked by one pulse,
which leaves E low, and the observer sees exactly that frame; nothing else is changed but TIMER. -/
def Obligations.FrameIsStrobedOnce : Prop :=
  ∀ (m : Bool) (n : Nibble) (s : State), AllOutputs s → ∃ t, exec (.frame m n) s = .next t ∧
    t = { s with
      level := ⟨if m then .high else .low, .low, if n.getLsbD 0 then .high else .low,
        if n.getLsbD 1 then .high else .low, if n.getLsbD 2 then .high else .low,
        if n.getLsbD 3 then .high else .low⟩
      timer := t.timer
      pinTrace := s.pinTrace ++ ([.set .rs m] ++ nibbleEvents n ++ toggleEvents) } ∧
    ∀ l : Lines Level, strobesFrom l ([.set .rs m] ++ nibbleEvents n ++ toggleEvents) = some [(m, n)]

/-- R56, R93 (derived in the spec): whatever the levels before a SEND and whatever follows it, the observer
sees its two nibbles in its mode, high first, and reads the byte back. -/
def Obligations.SendIsReadBack : Prop :=
  ∀ (v : Byte) (m : Bool) (l : Lines Level) (more : List Event),
    strobesFrom l (sendEvents v m ++ more) =
      (strobesFrom (levelsAfter l (sendEvents v m)) more).map
        (fun ps => (m, highNibble v) :: (m, lowNibble v) :: ps) ∧
    bytesOf (sendEvents v m) = some [(m, v)]

/-! ## The sequencer -/

/-- R96: INITIALIZE sends 0x33, 0x32, 0x06, 0x0C, 0x28, 0x01 in Command mode and waits one additional
`e_delay`; it leaves RS and E low and D7..D4 = 0001, and changes nothing else but VALUE, MODE and TIMER. -/
def Obligations.InitializeSendsTheSixBytes : Prop :=
  ∀ s : State, AllOutputs s → ∃ t, exec .initializeLcd s = .next t ∧
    t = { s with
      level := ⟨.low, .low, .high, .low, .low, .low⟩
      pinTrace := s.pinTrace ++ (sendEvents 0x33#8 false ++ sendEvents 0x32#8 false ++
        sendEvents 0x06#8 false ++ sendEvents 0x0C#8 false ++ sendEvents 0x28#8 false ++
        sendEvents 0x01#8 false ++ [.wait .eDelay])
      value := t.value, mode := t.mode, timer := t.timer, draws := t.draws }

/-- R97, R102: for line 1 or 2 WRITE_LINE sends the address byte and then the 16 normalised codes, left to
right, gives the text as received to an enabled diagnostic channel, and changes nothing else but the operand
registers and TIMER. -/
def Obligations.WriteLineSendsSeventeenBytes : Prop :=
  ∀ (text : List Byte) (line base : Byte) (s : State), AllOutputs s →
    (line = 1#8 ∧ base = 0x80#8 ∨ line = 2#8 ∧ base = 0xC0#8) → ∃ t, exec (.writeLine text line) s = .next t ∧
    t = { s with
      level := ⟨.high, .low, if (normText text)[15].getLsbD 0 then .high else .low,
        if (normText text)[15].getLsbD 1 then .high else .low,
        if (normText text)[15].getLsbD 2 then .high else .low,
        if (normText text)[15].getLsbD 3 then .high else .low⟩
      pinTrace := s.pinTrace ++ (sendEvents base false ++
        (normText text).toList.flatMap fun c => sendEvents c true)
      diagTrace := s.diagTrace ++ diagEntries s.plat [text]
      value := t.value, mode := t.mode, line := t.line, tl := t.tl, timer := t.timer, draws := t.draws }

/-- R105, R122: for every other line number, also with an empty text, WRITE_LINE and SHOW_LINE post
InvalidLineNumber and change nothing else: no event, no diagnostic entry. -/
def Obligations.BadLineNumberSendsNothing : Prop :=
  ∀ (text : List Byte) (line : Byte) (s : State), line ≠ 1#8 → line ≠ 2#8 → s.cur = none →
    exec (.writeLine text line) s = .next { s with resp := s.resp ++ [.invalidLineNumber] } ∧
    (s.life = .ready →
      exec (.showLine text line) s = .next { s with resp := s.resp ++ [.invalidLineNumber] })

/-- R98, R95: an idle READY block accepts CLEAR; its events are those of one SEND of 0x01 in Command mode. -/
def Obligations.ClearIsAccepted : Prop :=
  (∀ s : State, IdleReady s →
    exec .clear s = .next { s with cur := some { op := .clear, plan := clearPlan, k := 0 } }) ∧
  planEvents clearPlan = sendEvents 0x01#8 false

/-- R99, R95: an idle READY block accepts SHOW_LINE for line 1 or 2; its events are those of WRITE_LINE. -/
def Obligations.ShowLineIsAccepted : Prop :=
  (∀ (text : List Byte) (line base : Byte) (s : State), IdleReady s →
    (line = 1#8 ∧ base = 0x80#8 ∨ line = 2#8 ∧ base = 0xC0#8) →
    exec (.showLine text line) s = .next { s with
      cur := some { op := .showLine text line, plan := linePlan text line base, k := 0 } }) ∧
  ∀ (text : List Byte) (line base : Byte), planEvents (linePlan text line base) =
    sendEvents base false ++ (normText text).toList.flatMap fun c => sendEvents c true

/-- R100, R95 (the split is decision D11): an idle READY block accepts SHOW; its events are those of WRITE_LINE
of the first chunk to line 1 and then of the second to line 2. -/
def Obligations.ShowIsAccepted : Prop :=
  ∀ (text : List Byte) (s : State), IdleReady s →
    exec (.showBoth text) s = .next { s with
      cur := some { op := .showBoth text, plan := showPlan text, k := 0 } } ∧
    planEvents (showPlan text) = planEvents (linePlan (text.take 16) 1#8 0x80#8) ++
      planEvents (linePlan ((text.drop 16).take 16) 2#8 0xC0#8)

/-- R101, R95 (decisions D14, D15): an idle UNCONSTRUCTED block accepts CONSTRUCT when the six identifiers
resolve to six different pins: they are bound, and its events are six CFG and then INITIALIZE. -/
def Obligations.ConstructBindsAndStarts : Prop :=
  (∀ (ids : Lines PinId) (h : Lines Handle) (s : State), IdleUnconstructed s →
    (∀ r, s.plat.resolve (getLine ids r) = some (getLine h r)) →
    (∀ r q, getLine h r = getLine h q → r = q) →
    exec (.construct ids) s = .next { s with
      handle := ⟨some h.rs, some h.e, some h.d4, some h.d5, some h.d6, some h.d7⟩
      cur := some { op := .construct ids, plan := constructPlan, k := 0 } }) ∧
  planEvents constructPlan =
    [.cfg .rs, .cfg .e, .cfg .d4, .cfg .d5, .cfg .d6, .cfg .d7] ++ planEvents initializePlan

/-- R121, R124 (equal pins: decision D14): when an identifier does not resolve or two roles get the same pin,
CONSTRUCT posts InvalidPinID and changes nothing else. -/
def Obligations.BadPinSendsNothing : Prop :=
  ∀ (ids : Lines PinId) (s : State), IdleUnconstructed s →
    ((∃ r, s.plat.resolve (getLine ids r) = none) ∨
      ∃ r q, r ≠ q ∧ s.plat.resolve (getLine ids r) = s.plat.resolve (getLine ids q)) →
    exec (.construct ids) s = .next { s with resp := s.resp ++ [.invalidPinID] }

/-- R95, R125 (decision D5): a request that does not fit the lifecycle or comes while the block is busy is
refused, before any validation of its operands; and so is a whole one at the port of a busy block, by the next
step (as bytes, log 1; as a refusal that ends the run, log 9). -/
def Obligations.MisplacedRequestsAreRefused : Prop :=
  (∀ (s : State) (i : Instr), IsHostOp i →
    (s.cur.isSome → exec i s = .refused .busy) ∧
    (IdleUnconstructed s → (∀ ids, i ≠ .construct ids) → exec i s = .refused .needsReady) ∧
    (IdleReady s → (∃ ids, i = .construct ids) → exec i s = .refused .alreadyConstructed)) ∧
  ∀ (s : State) (i : Instr) (rest : List Byte), Quiet s → s.cur.isSome →
    decode .hostreq s.hostIn = .instr i rest → step s = .refused .busy

/-- R124: an error is returned before every side effect: when a host request posts a response at once, that
response is an error and is all that changed. -/
def Obligations.ErrorsComeBeforeEverySideEffect : Prop :=
  ∀ (i : Instr) (s t : State), IsHostOp i → exec i s = .next t → t.resp ≠ s.resp →
    ∃ e, e ≠ .ok ∧ t = { s with resp := s.resp ++ [e] }

/-- R113 (decision D23): at the end of its list the running operation posts OK and the block is idle; only
CONSTRUCT writes `life`. Nothing else is changed but the operand registers and TIMER. -/
def Obligations.OkEndsTheOperation : Prop :=
  ∀ (s : State) (r : Running), s.cur = some r → r.k = r.plan.length → ∃ t, exec .ok s = .next t ∧
    t = { s with
      cur := none, resp := s.resp ++ [.ok], life := t.life
      value := t.value, mode := t.mode, line := t.line, tl := t.tl, timer := t.timer, draws := t.draws } ∧
    ((∃ ids, r.op = .construct ids) → t.life = .ready) ∧ ((∀ ids, r.op ≠ .construct ids) → t.life = s.life)

/-- R126: an error row posts its response and changes nothing else; nothing is saved and no handler runs. -/
def Obligations.ErrorRowsPostTheirResponse : Prop :=
  ∀ s : State, s.cur = none →
    exec .invalidPinID s = .next { s with resp := s.resp ++ [.invalidPinID] } ∧
    exec .invalidLineNumber s = .next { s with resp := s.resp ++ [.invalidLineNumber] }

/-- The model's choices where the spec requires something that does not hold: SET on a line that is no output
and CFG on an unbound line stop by name (log 10), and so does a response row where the sequencer does not post
it (log 16). -/
def Obligations.RowsStopWhereTheirRequirementFails : Prop :=
  (∀ (r : Role) (b : Bool) (s : State), getLine s.dir r ≠ .output →
    exec (.set r b) s = .refused .lineNotOutput) ∧
  (∀ (r : Role) (s : State), getLine s.handle r = none → exec (.cfg r) s = .refused .lineNotBound) ∧
  (∀ s : State, s.cur = none → exec .ok s = .refused .responseOutOfTurn) ∧
  (∀ (s : State) (r : Running), s.cur = some r → r.k < r.plan.length →
    exec .ok s = .refused .responseOutOfTurn) ∧
  ∀ s : State, s.cur.isSome → exec .invalidPinID s = .refused .responseOutOfTurn ∧
    exec .invalidLineNumber s = .refused .responseOutOfTurn

/-- R88, R89, R112, R157 (derived in the spec): of each operation the number of its events, the number of its
waits and the sum of its waits in microseconds; a SHOW is never longer than 905 events. -/
def Obligations.OperationSizes : Prop :=
  sizes toggleEvents = (5, 3, 1500) ∧
  (∀ n : Nibble, sizes (nibbleEvents n) = (4 + popcount n, 0, 0)) ∧
  (∀ (v : Byte) (m : Bool), sizes (sendEvents v m) = (19 + popcount v, 6, 3000)) ∧
  sizes (planEvents initializePlan) = (129, 37, 18500) ∧
  sizes (planEvents constructPlan) = (135, 37, 18500) ∧
  sizes (planEvents clearPlan) = (20, 6, 3000) ∧
  ∀ text : List Byte,
    sizes (planEvents (linePlan text 1#8 0x80#8)) = (324 + popcounts (normText text).toList, 102, 51000) ∧
    sizes (planEvents (linePlan text 2#8 0xC0#8)) = (325 + popcounts (normText text).toList, 102, 51000) ∧
    sizes (planEvents (showPlan text)) =
      (649 + popcounts (normText (chunk1 text)).toList + popcounts (normText (chunk2 text)).toList, 204, 102000) ∧
    (planEvents (showPlan text)).length ≤ 905

/-- R103, R104, R106, R107 (derived in the spec): what the observer reads from each operation's list. -/
def Obligations.BytesOfEachOperation : Prop :=
  bytesOf (planEvents initializePlan) = some initBytes ∧
  bytesOf (planEvents constructPlan) = some initBytes ∧
  bytesOf (planEvents clearPlan) = some [(false, 0x01#8)] ∧
  (∀ (text : List Byte) (line base : Byte),
    bytesOf (planEvents (linePlan text line base)) = some (lineBytes text base)) ∧
  ∀ text : List Byte, bytesOf (planEvents (showPlan text)) =
    some (lineBytes (chunk1 text) 0x80#8 ++ lineBytes (chunk2 text) 0xC0#8)

/-! ## The step -/

/-- R95 (the port as bytes, log 1): the step runs a whole request at the port, of an idle or a busy block: it is
exec of the decoded instruction, past its bytes, which accepts or refuses it; what is decoded there is a
well-formed host operation. -/
def Obligations.StepRunsTheDecodedRequest : Prop :=
  ∀ (s : State) (i : Instr) (rest : List Byte), Quiet s → decode .hostreq s.hostIn = .instr i rest →
    step s = exec i { s with hostIn := rest } ∧ WellFormed i ∧ IsHostOp i

/-- R136 (and log 13): an idle block with no whole request at its port stays as it is while the host sends none.
R115 as the model runs it (log 24): the host of an idle block with an empty port sends the next request of its
program, which is then at the port. And the model's own port (log 3): a presented table row is what the step
runs. -/
def Obligations.StepWaitsOrRunsAPresentedRow : Prop :=
  (∀ s : State, Quiet s → s.cur = none → NoRequest s → s.hostIn ≠ [] ∨ s.program = [] → step s = .next s) ∧
  (∀ (s : State) (q : List Byte) (later : List (List Byte)), Quiet s → s.cur = none → s.hostIn = [] →
    s.program = q :: later → step s = .next { s with hostIn := q, program := later }) ∧
  ∀ (s : State) (i : Instr), s.rst = false → s.unitCall = some i → step s = exec i { s with unitCall := none }

/-- R113 (decision D23): a busy block with no whole request at its port performs the event at `k`, with the
register transfers that come with it, and `k` advances by 1; past the last event it runs the row OK. -/
def Obligations.StepPerformsTheEventAtK : Prop :=
  ∀ (s : State) (r : Running), Quiet s → NoRequest s → s.cur = some r →
    (∀ m, r.plan[r.k]? = some m → step s = exec (instrOfEvent m.event)
      ({ s with cur := some { op := r.op, plan := r.plan, k := r.k + 1 } }.transfers m.pre)) ∧
    (r.plan.length ≤ r.k → step s = exec .ok s)

/-- R22, R23, R24, R97 as the model runs them (log 7): from the first event of a SEND of any operation to its
last VALUE and MODE hold the byte and the mode of that SEND; from the first event of a WRITE_LINE to its last
LINE holds its line number; from the first event after its address byte to its last TL holds `Norm(text)`. -/
def Obligations.OperandRegistersAreLoaded : Prop :=
  (∀ (s : State) (op : Instr) (before after : List Micro) (v : Byte) (m : Bool) (j : Nat),
    Quiet s → NoRequest s → AllOutputs s →
    s.cur = some { op := op, plan := before ++ sendPlan v m ++ after, k := before.length } →
    1 ≤ j → j ≤ (sendPlan v m).length →
    ∃ t, runSteps j s = .next t ∧ t.value = v ∧ t.mode = m) ∧
  ∀ (s : State) (op : Instr) (before after : List Micro) (text : List Byte) (line base : Byte) (j : Nat),
    Quiet s → NoRequest s → AllOutputs s →
    s.cur = some { op := op, plan := before ++ linePlan text line base ++ after, k := before.length } →
    1 ≤ j → j ≤ (linePlan text line base).length →
    ∃ t, runSteps j s = .next t ∧ t.line = line ∧
      ((sendPlan base modeCmd).length < j → t.tl = normText text)

/-- R90, R49: a busy step that answers a next state, with no whole request at the port, adds exactly the event
at `k`, keeps the operation and advances `k` by 1; it posts nothing and touches no handle, no lifecycle and
nothing of the host's. -/
def Obligations.BusyStepAddsExactlyOneEvent : Prop :=
  ∀ (s t : State) (r : Running) (m : Micro), Quiet s → NoRequest s → s.cur = some r → r.plan[r.k]? = some m →
    step s = .next t →
    t.pinTrace = s.pinTrace ++ [m.event] ∧ t.level = levelsStep s.level m.event ∧
      t.cur = some { op := r.op, plan := r.plan, k := r.k + 1 } ∧
      t.resp = s.resp ∧ t.hostIn = s.hostIn ∧ t.program = s.program ∧ t.handle = s.handle ∧ t.life = s.life

/-- R113, last sentence: performing a list step by step leads where the big-step reading leads, applying the
whole list in order, for any list and from any state with no whole request at its port. -/
def Obligations.SteppingEqualsBigStep : Prop :=
  ∀ (s : State) (op : Instr) (plan : List Micro), Quiet s → NoRequest s →
    runSteps plan.length { s with cur := some { op := op, plan := plan, k := 0 } } =
      andThen (runPlan plan s) fun t => .next { t with cur := some { op := op, plan := plan, k := plan.length } }

/-! ## Invariants and whole-machine rules -/

/-- R31 and what it rests on: every step keeps the invariant of the block, from every state that meets it. -/
def Obligations.InvEveryStep : Prop := ∀ s t : State, Inv s → step s = .next t → Inv t

/-- The invariant holds after reset. -/
def Obligations.InvAtReset : Prop := Inv State.reset

/-- R31 a, b, d (derived in the spec): READY means bound, output and written; idle and READY means E low; idle
means an even number of strobes. -/
def Obligations.InvGivesTheReachableStates : Prop :=
  ∀ s : State, Inv s →
    (s.life = .ready → ∀ r, (getLine s.handle r).isSome ∧ getLine s.dir r = .output ∧ getLine s.level r ≠ .x) ∧
    (s.life = .ready → s.cur = none → s.level.e = .low) ∧
    (s.cur = none → ∃ ps, strobes s.pinTrace = some ps ∧ ps.length % 2 = 0)

/-- R31 c (derived in the spec), R32, R34, R135: under the invariant no step stops because a line is not an
output or not bound, or a response is out of turn: only a refused request ends a run, a busy one only while an
operation is running, the two of the lifecycle only while none is. -/
def Obligations.OnlyRefusedRequestsStop : Prop :=
  ∀ (s : State) (r : Refusal), Inv s → step s = .refused r →
    (∃ why, r = .reservedRequest why) ∨ (r = .busy ∧ s.cur.isSome) ∨
      (s.cur = none ∧ (r = .needsReady ∨ r = .alreadyConstructed))

/-- R146: between `SET(E,1)` and `SET(E,0)` there is exactly one event, `WAIT(E_PULSE)`. -/
def Obligations.PulseIsOneWait : Prop :=
  ∀ (s : State) (a b : List Event), Inv s → s.pinTrace = a ++ .set .e true :: b →
    b = [] ∨ b = [.wait .ePulse] ∨ ∃ c, b = .wait .ePulse :: .set .e false :: c

/-- R147: every `SET(E,0)` is followed directly by `WAIT(E_DELAY)`, and between it and any later `SET(E,1)` lie
at least two waits. -/
def Obligations.LowPhaseFollowsTheFall : Prop :=
  ∀ (s : State) (a b : List Event), Inv s → s.pinTrace = a ++ .set .e false :: b →
    (b = [] ∨ ∃ c, b = .wait .eDelay :: c) ∧
      ∀ mid c : List Event, b = mid ++ .set .e true :: c → 2 ≤ waitCount mid

/-- R145: the last SET of a driven nibble is followed by `WAIT(E_DELAY)` and then `SET(E,1)`, with nothing
between: what follows a write of a data line is that pair, or another write of the same nibble, which is never
`SET(D4,0)`, the first of a nibble (R85). -/
def Obligations.PulseFollowsTheDrivenNibble : Prop :=
  ∀ (s : State) (a b : List Event) (d : Role) (x : Bool), Inv s → d ≠ .rs → d ≠ .e →
    s.pinTrace = a ++ .set d x :: b →
    b = [] ∨ (∃ q y c, q ≠ .rs ∧ q ≠ .e ∧ ¬ (q = .d4 ∧ y = false) ∧ b = .set q y :: c) ∨
      b = [.wait .eDelay] ∨ ∃ c, b = .wait .eDelay :: .set .e true :: c

/-- R144: between the write of RS of a SEND and the next write of RS lie both pulses of that SEND and the
`WAIT(E_DELAY)` after the second one, its last event; and `E_DELAY` passes between the write of RS and the first
`SET(E,1)`. -/
def Obligations.RsIsStableThroughBothPulses : Prop :=
  ∀ (s : State) (a mid b : List Event) (m : Bool), Inv s →
    (∀ m' : Bool, s.pinTrace = a ++ .set .rs m :: mid ++ .set .rs m' :: b →
      (mid.filter fun e => e = .set .e false).length % 2 = 0 ∧ Event.set .e false ∈ mid ∧
      ((∀ x : Bool, Event.set .rs x ∉ mid) → ∃ p q, mid = p ++ .set .e false :: .wait .eDelay :: q ∧
        (p.filter fun e => e = .set .e false).length = 1 ∧ Event.set .e false ∉ q)) ∧
    (s.pinTrace = a ++ .set .rs m :: mid ++ .set .e true :: b → Event.wait .eDelay ∈ mid)

/-- R91 (derived in the spec): no line but E is written while E is high. -/
def Obligations.NoLineMovesDuringAPulse : Prop :=
  ∀ (s : State) (a b : List Event) (r : Role) (x : Bool), Inv s → r ≠ .e →
    s.pinTrace = a ++ .set r x :: b → (levelsAfter (allLines .x) a).e ≠ .high

/-- R108, R64, R74 (derived in the spec): between operations of a READY block the bytes transmitted start with
the six of the initialisation, and every Command byte among them is one of the eight. -/
def Obligations.TransmittedBytesOfAReadyBlock : Prop :=
  ∀ s : State, Inv s → s.cur = none → s.life = .ready → ∃ more,
    bytesOf s.pinTrace = some (initBytes ++ more) ∧
      ∀ v, (false, v) ∈ initBytes ++ more →
        v ∈ [0x33#8, 0x32#8, 0x06#8, 0x0C#8, 0x28#8, 0x01#8, 0x80#8, 0xC0#8]

/-- R113, R128: an accepted operation runs to its last event and its OK, the OK being a step of its own (log 16),
in the number of steps that its list fixes, while the host sends nothing more, as R115 has it. -/
def Obligations.AcceptedOperationRunsToItsEnd : Prop :=
  ∀ (s : State) (r : Running), Inv s → s.rst = false → NoRequest s → s.cur = some r →
    ∃ t, runSteps (r.plan.length - r.k + 1) s = .next t ∧
      t.cur = none ∧ t.life = .ready ∧ t.resp = s.resp ++ [.ok] ∧
      t.pinTrace = s.pinTrace ++ (planEvents r.plan).drop r.k ∧
      t.level = levelsAfter s.level ((planEvents r.plan).drop r.k) ∧
      t.handle = s.handle ∧ t.hostIn = s.hostIn ∧ t.program = s.program

/-- R101, R108 (its bytes at the port, log 1; one step to accept it and one for its OK, log 16): a CONSTRUCT at
the port of a block in its reset lifecycle leaves it READY, having transmitted the six bytes and nothing else,
with one OK. -/
def Obligations.ConstructDelivers : Prop :=
  ∀ (s : State) (ids : Lines PinId) (h : Lines Handle) (rest : List Byte), Inv s → s.rst = false →
    IdleUnconstructed s → resolveAll s.plat ids = some h →
    s.hostIn = encode (.construct ids) ++ rest → decode .hostreq rest = .refused .incomplete →
    ∃ t, runSteps 137 s = .next t ∧ IdleReady t ∧ t.handle = boundLines h ∧
      t.dir = allLines .output ∧ t.level = ⟨.low, .low, .high, .low, .low, .low⟩ ∧
      bytesOf t.pinTrace = some initBytes ∧ t.resp = s.resp ++ [.ok] ∧ t.hostIn = rest

/-- R98, R106 (its bytes at the port, log 1; one step to accept it and one for its OK, log 16): a CLEAR at the
port of an idle READY block transmits exactly one more byte, Command 0x01, and no diagnostic entry, with one
OK. -/
def Obligations.ClearDelivers : Prop :=
  ∀ (s : State) (rest : List Byte) (bs : List (Bool × Byte)), Inv s → s.rst = false → IdleReady s →
    s.hostIn = encode .clear ++ rest → decode .hostreq rest = .refused .incomplete →
    bytesOf s.pinTrace = some bs →
    ∃ t, runSteps 22 s = .next t ∧ IdleReady t ∧
      bytesOf t.pinTrace = some (bs ++ [(false, 0x01#8)]) ∧ t.diagTrace = s.diagTrace ∧
      t.level = ⟨.low, .low, .high, .low, .low, .low⟩ ∧ t.resp = s.resp ++ [.ok] ∧ t.hostIn = rest

/-- R99, R104, R102 (its bytes at the port, log 1; when the text reaches the channel, log 11): a SHOW_LINE for
line 1 or 2 at the port of an idle READY block transmits the address byte and the 16 normalised codes, and the
text as received on an enabled diagnostic channel, with one OK. -/
def Obligations.ShowLineDelivers : Prop :=
  ∀ (s : State) (text : List Byte) (line base : Byte) (rest : List Byte) (bs : List (Bool × Byte)),
    Inv s → s.rst = false → IdleReady s → TextFits text → lineBase line = some base →
    s.hostIn = encode (.showLine text line) ++ rest → decode .hostreq rest = .refused .incomplete →
    bytesOf s.pinTrace = some bs →
    ∃ n t, runSteps n s = .next t ∧ IdleReady t ∧
      bytesOf t.pinTrace = some (bs ++ lineBytes text base) ∧
      t.diagTrace = s.diagTrace ++ diagEntries s.plat [text] ∧
      t.resp = s.resp ++ [.ok] ∧ t.hostIn = rest

/-- R100, R107, R102 (the split is decision D11; its bytes at the port, log 1): a SHOW at the port of an idle
READY block transmits both lines, always 34 bytes, line 1 complete before line 2, and the two chunks on an
enabled diagnostic channel, with one OK. -/
def Obligations.ShowDelivers : Prop :=
  ∀ (s : State) (text : List Byte) (rest : List Byte) (bs : List (Bool × Byte)),
    Inv s → s.rst = false → IdleReady s → TextFits text →
    s.hostIn = encode (.showBoth text) ++ rest → decode .hostreq rest = .refused .incomplete →
    bytesOf s.pinTrace = some bs →
    ∃ n t, runSteps n s = .next t ∧ IdleReady t ∧
      bytesOf t.pinTrace =
        some (bs ++ lineBytes (text.take 16) 0x80#8 ++ lineBytes ((text.drop 16).take 16) 0xC0#8) ∧
      t.diagTrace = s.diagTrace ++ diagEntries s.plat [text.take 16, (text.drop 16).take 16] ∧
      t.resp = s.resp ++ [.ok] ∧ t.hostIn = rest
end

