-- ==== Sys2Proof/Laws/State.lean ====
section
/-! SUPPORT. What each update of the state does to each field, one lemma per field per update, so that no proof
unfolds an update. A field that an update leaves unspecified for its reader has no lemma here. -/

namespace Sys2Proof.Machine

/-! ## The six lines -/

@[simp] theorem getLine_setLine_same {α : Type} (l : Lines α) (r : Role) (a : α) :
    getLine (setLine l r a) r = a := by
  cases r <;> rfl

@[simp] theorem getLine_setLine_other {α : Type} (l : Lines α) {r q : Role} (a : α) (h : q ≠ r) :
    getLine (setLine l r a) q = getLine l q := by
  cases r <;> cases q <;> first | rfl | exact absurd rfl h

@[simp] theorem getLine_allLines {α : Type} (a : α) (r : Role) : getLine (allLines a) r = a := by
  cases r <;> rfl

@[simp] theorem getLine_boundLines (h : Lines Handle) (r : Role) :
    getLine (boundLines h) r = some (getLine h r) := by
  cases r <;> rfl

/-- Six values are equal when they are equal role by role. -/
theorem lines_ext {α : Type} {a b : Lines α} (h : ∀ r, getLine a r = getLine b r) : a = b := by
  have h0 := h .rs
  have h1 := h .e
  have h2 := h .d4
  have h3 := h .d5
  have h4 := h .d6
  have h5 := h .d7
  cases a
  cases b
  simp_all [getLine]

/-- Configuring a line that is an output already changes no direction of an all-output block. -/
@[simp] theorem setLine_allLines_same {α : Type} (a : α) (r : Role) :
    setLine (allLines a) r a = allLines a := by
  cases r <;> rfl

/-! ## emit -/

@[simp] theorem State.emit_handle (s : State) (e : Event) :
    (s.emit e).handle = s.handle := rfl

@[simp] theorem State.emit_dir (s : State) (e : Event) :
    (s.emit e).dir = s.dir := rfl

@[simp] theorem State.emit_level (s : State) (e : Event) :
    (s.emit e).level = s.level := rfl

@[simp] theorem State.emit_life (s : State) (e : Event) :
    (s.emit e).life = s.life := rfl

@[simp] theorem State.emit_cur (s : State) (e : Event) :
    (s.emit e).cur = s.cur := rfl

@[simp] theorem State.emit_value (s : State) (e : Event) :
    (s.emit e).value = s.value := rfl

@[simp] theorem State.emit_mode (s : State) (e : Event) :
    (s.emit e).mode = s.mode := rfl

@[simp] theorem State.emit_line (s : State) (e : Event) :
    (s.emit e).line = s.line := rfl

@[simp] theorem State.emit_tl (s : State) (e : Event) :
    (s.emit e).tl = s.tl := rfl

@[simp] theorem State.emit_timer (s : State) (e : Event) :
    (s.emit e).timer = s.timer := rfl

@[simp] theorem State.emit_pinTrace (s : State) (e : Event) :
    (s.emit e).pinTrace = s.pinTrace ++ [e] := rfl

@[simp] theorem State.emit_diagTrace (s : State) (e : Event) :
    (s.emit e).diagTrace = s.diagTrace := rfl

@[simp] theorem State.emit_resp (s : State) (e : Event) :
    (s.emit e).resp = s.resp := rfl

@[simp] theorem State.emit_rst (s : State) (e : Event) :
    (s.emit e).rst = s.rst := rfl

@[simp] theorem State.emit_hostIn (s : State) (e : Event) :
    (s.emit e).hostIn = s.hostIn := rfl

@[simp] theorem State.emit_program (s : State) (e : Event) :
    (s.emit e).program = s.program := rfl

@[simp] theorem State.emit_plat (s : State) (e : Event) :
    (s.emit e).plat = s.plat := rfl

@[simp] theorem State.emit_unitCall (s : State) (e : Event) :
    (s.emit e).unitCall = s.unitCall := rfl

@[simp] theorem State.emit_draws (s : State) (e : Event) :
    (s.emit e).draws = s.draws := rfl

/-! ## setLevel -/

@[simp] theorem State.setLevel_handle (s : State) (r : Role) (b : Bool) :
    (s.setLevel r b).handle = s.handle := rfl

@[simp] theorem State.setLevel_dir (s : State) (r : Role) (b : Bool) :
    (s.setLevel r b).dir = s.dir := rfl

@[simp] theorem State.setLevel_level (s : State) (r : Role) (b : Bool) :
    (s.setLevel r b).level = setLine s.level r (levelOfBool b) := rfl

@[simp] theorem State.setLevel_life (s : State) (r : Role) (b : Bool) :
    (s.setLevel r b).life = s.life := rfl

@[simp] theorem State.setLevel_cur (s : State) (r : Role) (b : Bool) :
    (s.setLevel r b).cur = s.cur := rfl

@[simp] theorem State.setLevel_value (s : State) (r : Role) (b : Bool) :
    (s.setLevel r b).value = s.value := rfl

@[simp] theorem State.setLevel_mode (s : State) (r : Role) (b : Bool) :
    (s.setLevel r b).mode = s.mode := rfl

@[simp] theorem State.setLevel_line (s : State) (r : Role) (b : Bool) :
    (s.setLevel r b).line = s.line := rfl

@[simp] theorem State.setLevel_tl (s : State) (r : Role) (b : Bool) :
    (s.setLevel r b).tl = s.tl := rfl

@[simp] theorem State.setLevel_timer (s : State) (r : Role) (b : Bool) :
    (s.setLevel r b).timer = s.timer := rfl

@[simp] theorem State.setLevel_pinTrace (s : State) (r : Role) (b : Bool) :
    (s.setLevel r b).pinTrace = s.pinTrace := rfl

@[simp] theorem State.setLevel_diagTrace (s : State) (r : Role) (b : Bool) :
    (s.setLevel r b).diagTrace = s.diagTrace := rfl

@[simp] theorem State.setLevel_resp (s : State) (r : Role) (b : Bool) :
    (s.setLevel r b).resp = s.resp := rfl

@[simp] theorem State.setLevel_rst (s : State) (r : Role) (b : Bool) :
    (s.setLevel r b).rst = s.rst := rfl

@[simp] theorem State.setLevel_hostIn (s : State) (r : Role) (b : Bool) :
    (s.setLevel r b).hostIn = s.hostIn := rfl

@[simp] theorem State.setLevel_program (s : State) (r : Role) (b : Bool) :
    (s.setLevel r b).program = s.program := rfl

@[simp] theorem State.setLevel_plat (s : State) (r : Role) (b : Bool) :
    (s.setLevel r b).plat = s.plat := rfl

@[simp] theorem State.setLevel_unitCall (s : State) (r : Role) (b : Bool) :
    (s.setLevel r b).unitCall = s.unitCall := rfl

@[simp] theorem State.setLevel_draws (s : State) (r : Role) (b : Bool) :
    (s.setLevel r b).draws = s.draws := rfl

/-! ## runTimer -/

@[simp] theorem State.runTimer_handle (s : State) (d : Delay) :
    (s.runTimer d).handle = s.handle := rfl

@[simp] theorem State.runTimer_dir (s : State) (d : Delay) :
    (s.runTimer d).dir = s.dir := rfl

@[simp] theorem State.runTimer_level (s : State) (d : Delay) :
    (s.runTimer d).level = s.level := rfl

@[simp] theorem State.runTimer_life (s : State) (d : Delay) :
    (s.runTimer d).life = s.life := rfl

@[simp] theorem State.runTimer_cur (s : State) (d : Delay) :
    (s.runTimer d).cur = s.cur := rfl

@[simp] theorem State.runTimer_value (s : State) (d : Delay) :
    (s.runTimer d).value = s.value := rfl

@[simp] theorem State.runTimer_mode (s : State) (d : Delay) :
    (s.runTimer d).mode = s.mode := rfl

@[simp] theorem State.runTimer_line (s : State) (d : Delay) :
    (s.runTimer d).line = s.line := rfl

@[simp] theorem State.runTimer_tl (s : State) (d : Delay) :
    (s.runTimer d).tl = s.tl := rfl

@[simp] theorem State.runTimer_timer (s : State) (d : Delay) :
    (s.runTimer d).timer = Config.timerAfter (waitTicks d) := rfl

@[simp] theorem State.runTimer_pinTrace (s : State) (d : Delay) :
    (s.runTimer d).pinTrace = s.pinTrace := rfl

@[simp] theorem State.runTimer_diagTrace (s : State) (d : Delay) :
    (s.runTimer d).diagTrace = s.diagTrace := rfl

@[simp] theorem State.runTimer_resp (s : State) (d : Delay) :
    (s.runTimer d).resp = s.resp := rfl

@[simp] theorem State.runTimer_rst (s : State) (d : Delay) :
    (s.runTimer d).rst = s.rst := rfl

@[simp] theorem State.runTimer_hostIn (s : State) (d : Delay) :
    (s.runTimer d).hostIn = s.hostIn := rfl

@[simp] theorem State.runTimer_program (s : State) (d : Delay) :
    (s.runTimer d).program = s.program := rfl

@[simp] theorem State.runTimer_plat (s : State) (d : Delay) :
    (s.runTimer d).plat = s.plat := rfl

@[simp] theorem State.runTimer_unitCall (s : State) (d : Delay) :
    (s.runTimer d).unitCall = s.unitCall := rfl

@[simp] theorem State.runTimer_draws (s : State) (d : Delay) :
    (s.runTimer d).draws = s.draws := rfl

/-! ## configure -/

@[simp] theorem State.configure_handle (s : State) (r : Role) :
    (s.configure r).handle = s.handle := rfl

@[simp] theorem State.configure_dir (s : State) (r : Role) :
    (s.configure r).dir = setLine s.dir r .output := rfl

@[simp] theorem State.configure_level (s : State) (r : Role) :
    (s.configure r).level = setLine s.level r .x := rfl

@[simp] theorem State.configure_life (s : State) (r : Role) :
    (s.configure r).life = s.life := rfl

@[simp] theorem State.configure_cur (s : State) (r : Role) :
    (s.configure r).cur = s.cur := rfl

@[simp] theorem State.configure_value (s : State) (r : Role) :
    (s.configure r).value = s.value := rfl

@[simp] theorem State.configure_mode (s : State) (r : Role) :
    (s.configure r).mode = s.mode := rfl

@[simp] theorem State.configure_line (s : State) (r : Role) :
    (s.configure r).line = s.line := rfl

@[simp] theorem State.configure_tl (s : State) (r : Role) :
    (s.configure r).tl = s.tl := rfl

@[simp] theorem State.configure_timer (s : State) (r : Role) :
    (s.configure r).timer = s.timer := rfl

@[simp] theorem State.configure_pinTrace (s : State) (r : Role) :
    (s.configure r).pinTrace = s.pinTrace := rfl

@[simp] theorem State.configure_diagTrace (s : State) (r : Role) :
    (s.configure r).diagTrace = s.diagTrace := rfl

@[simp] theorem State.configure_resp (s : State) (r : Role) :
    (s.configure r).resp = s.resp := rfl

@[simp] theorem State.configure_rst (s : State) (r : Role) :
    (s.configure r).rst = s.rst := rfl

@[simp] theorem State.configure_hostIn (s : State) (r : Role) :
    (s.configure r).hostIn = s.hostIn := rfl

@[simp] theorem State.configure_program (s : State) (r : Role) :
    (s.configure r).program = s.program := rfl

@[simp] theorem State.configure_plat (s : State) (r : Role) :
    (s.configure r).plat = s.plat := rfl

@[simp] theorem State.configure_unitCall (s : State) (r : Role) :
    (s.configure r).unitCall = s.unitCall := rfl

@[simp] theorem State.configure_draws (s : State) (r : Role) :
    (s.configure r).draws = s.draws := rfl

/-! ## dropSend -/

@[simp] theorem State.dropSend_handle (s : State) :
    s.dropSend.handle = s.handle := rfl

@[simp] theorem State.dropSend_dir (s : State) :
    s.dropSend.dir = s.dir := rfl

@[simp] theorem State.dropSend_level (s : State) :
    s.dropSend.level = s.level := rfl

@[simp] theorem State.dropSend_life (s : State) :
    s.dropSend.life = s.life := rfl

@[simp] theorem State.dropSend_cur (s : State) :
    s.dropSend.cur = s.cur := rfl

@[simp] theorem State.dropSend_value (s : State) :
    s.dropSend.value = Config.freeValue s.draws := rfl

@[simp] theorem State.dropSend_mode (s : State) :
    s.dropSend.mode = Config.freeMode s.draws := rfl

@[simp] theorem State.dropSend_line (s : State) :
    s.dropSend.line = s.line := rfl

@[simp] theorem State.dropSend_tl (s : State) :
    s.dropSend.tl = s.tl := rfl

@[simp] theorem State.dropSend_timer (s : State) :
    s.dropSend.timer = s.timer := rfl

@[simp] theorem State.dropSend_pinTrace (s : State) :
    s.dropSend.pinTrace = s.pinTrace := rfl

@[simp] theorem State.dropSend_diagTrace (s : State) :
    s.dropSend.diagTrace = s.diagTrace := rfl

@[simp] theorem State.dropSend_resp (s : State) :
    s.dropSend.resp = s.resp := rfl

@[simp] theorem State.dropSend_rst (s : State) :
    s.dropSend.rst = s.rst := rfl

@[simp] theorem State.dropSend_hostIn (s : State) :
    s.dropSend.hostIn = s.hostIn := rfl

@[simp] theorem State.dropSend_program (s : State) :
    s.dropSend.program = s.program := rfl

@[simp] theorem State.dropSend_plat (s : State) :
    s.dropSend.plat = s.plat := rfl

@[simp] theorem State.dropSend_unitCall (s : State) :
    s.dropSend.unitCall = s.unitCall := rfl

@[simp] theorem State.dropSend_draws (s : State) :
    s.dropSend.draws = s.draws + 1 := rfl

/-! ## dropOperands -/

@[simp] theorem State.dropOperands_handle (s : State) :
    s.dropOperands.handle = s.handle := rfl

@[simp] theorem State.dropOperands_dir (s : State) :
    s.dropOperands.dir = s.dir := rfl

@[simp] theorem State.dropOperands_level (s : State) :
    s.dropOperands.level = s.level := rfl

@[simp] theorem State.dropOperands_life (s : State) :
    s.dropOperands.life = s.life := rfl

@[simp] theorem State.dropOperands_cur (s : State) :
    s.dropOperands.cur = s.cur := rfl

@[simp] theorem State.dropOperands_value (s : State) :
    s.dropOperands.value = Config.freeValue s.draws := rfl

@[simp] theorem State.dropOperands_mode (s : State) :
    s.dropOperands.mode = Config.freeMode s.draws := rfl

@[simp] theorem State.dropOperands_line (s : State) :
    s.dropOperands.line = Config.freeLine s.draws := rfl

@[simp] theorem State.dropOperands_tl (s : State) :
    s.dropOperands.tl = Config.freeText s.draws := rfl

@[simp] theorem State.dropOperands_timer (s : State) :
    s.dropOperands.timer = Config.freeTimer s.draws := rfl

@[simp] theorem State.dropOperands_pinTrace (s : State) :
    s.dropOperands.pinTrace = s.pinTrace := rfl

@[simp] theorem State.dropOperands_diagTrace (s : State) :
    s.dropOperands.diagTrace = s.diagTrace := rfl

@[simp] theorem State.dropOperands_resp (s : State) :
    s.dropOperands.resp = s.resp := rfl

@[simp] theorem State.dropOperands_rst (s : State) :
    s.dropOperands.rst = s.rst := rfl

@[simp] theorem State.dropOperands_hostIn (s : State) :
    s.dropOperands.hostIn = s.hostIn := rfl

@[simp] theorem State.dropOperands_program (s : State) :
    s.dropOperands.program = s.program := rfl

@[simp] theorem State.dropOperands_plat (s : State) :
    s.dropOperands.plat = s.plat := rfl

@[simp] theorem State.dropOperands_unitCall (s : State) :
    s.dropOperands.unitCall = s.unitCall := rfl

@[simp] theorem State.dropOperands_draws (s : State) :
    s.dropOperands.draws = s.draws + 1 := rfl

/-! ## start -/

@[simp] theorem State.start_handle (s : State) (op : Instr) (plan : List Micro) :
    (s.start op plan).handle = s.handle := rfl

@[simp] theorem State.start_dir (s : State) (op : Instr) (plan : List Micro) :
    (s.start op plan).dir = s.dir := rfl

@[simp] theorem State.start_level (s : State) (op : Instr) (plan : List Micro) :
    (s.start op plan).level = s.level := rfl

@[simp] theorem State.start_life (s : State) (op : Instr) (plan : List Micro) :
    (s.start op plan).life = s.life := rfl

@[simp] theorem State.start_cur (s : State) (op : Instr) (plan : List Micro) :
    (s.start op plan).cur = some { op := op, plan := plan, k := 0 } := rfl

@[simp] theorem State.start_value (s : State) (op : Instr) (plan : List Micro) :
    (s.start op plan).value = s.value := rfl

@[simp] theorem State.start_mode (s : State) (op : Instr) (plan : List Micro) :
    (s.start op plan).mode = s.mode := rfl

@[simp] theorem State.start_line (s : State) (op : Instr) (plan : List Micro) :
    (s.start op plan).line = s.line := rfl

@[simp] theorem State.start_tl (s : State) (op : Instr) (plan : List Micro) :
    (s.start op plan).tl = s.tl := rfl

@[simp] theorem State.start_timer (s : State) (op : Instr) (plan : List Micro) :
    (s.start op plan).timer = s.timer := rfl

@[simp] theorem State.start_pinTrace (s : State) (op : Instr) (plan : List Micro) :
    (s.start op plan).pinTrace = s.pinTrace := rfl

@[simp] theorem State.start_diagTrace (s : State) (op : Instr) (plan : List Micro) :
    (s.start op plan).diagTrace = s.diagTrace := rfl

@[simp] theorem State.start_resp (s : State) (op : Instr) (plan : List Micro) :
    (s.start op plan).resp = s.resp := rfl

@[simp] theorem State.start_rst (s : State) (op : Instr) (plan : List Micro) :
    (s.start op plan).rst = s.rst := rfl

@[simp] theorem State.start_hostIn (s : State) (op : Instr) (plan : List Micro) :
    (s.start op plan).hostIn = s.hostIn := rfl

@[simp] theorem State.start_program (s : State) (op : Instr) (plan : List Micro) :
    (s.start op plan).program = s.program := rfl

@[simp] theorem State.start_plat (s : State) (op : Instr) (plan : List Micro) :
    (s.start op plan).plat = s.plat := rfl

@[simp] theorem State.start_unitCall (s : State) (op : Instr) (plan : List Micro) :
    (s.start op plan).unitCall = s.unitCall := rfl

@[simp] theorem State.start_draws (s : State) (op : Instr) (plan : List Micro) :
    (s.start op plan).draws = s.draws := rfl

/-! ## post -/

@[simp] theorem State.post_handle (s : State) (r : Response) :
    (s.post r).handle = s.handle := rfl

@[simp] theorem State.post_dir (s : State) (r : Response) :
    (s.post r).dir = s.dir := rfl

@[simp] theorem State.post_level (s : State) (r : Response) :
    (s.post r).level = s.level := rfl

@[simp] theorem State.post_life (s : State) (r : Response) :
    (s.post r).life = s.life := rfl

@[simp] theorem State.post_cur (s : State) (r : Response) :
    (s.post r).cur = s.cur := rfl

@[simp] theorem State.post_value (s : State) (r : Response) :
    (s.post r).value = s.value := rfl

@[simp] theorem State.post_mode (s : State) (r : Response) :
    (s.post r).mode = s.mode := rfl

@[simp] theorem State.post_line (s : State) (r : Response) :
    (s.post r).line = s.line := rfl

@[simp] theorem State.post_tl (s : State) (r : Response) :
    (s.post r).tl = s.tl := rfl

@[simp] theorem State.post_timer (s : State) (r : Response) :
    (s.post r).timer = s.timer := rfl

@[simp] theorem State.post_pinTrace (s : State) (r : Response) :
    (s.post r).pinTrace = s.pinTrace := rfl

@[simp] theorem State.post_diagTrace (s : State) (r : Response) :
    (s.post r).diagTrace = s.diagTrace := rfl

@[simp] theorem State.post_resp (s : State) (r : Response) :
    (s.post r).resp = s.resp ++ [r] := rfl

@[simp] theorem State.post_rst (s : State) (r : Response) :
    (s.post r).rst = s.rst := rfl

@[simp] theorem State.post_hostIn (s : State) (r : Response) :
    (s.post r).hostIn = s.hostIn := rfl

@[simp] theorem State.post_program (s : State) (r : Response) :
    (s.post r).program = s.program := rfl

@[simp] theorem State.post_plat (s : State) (r : Response) :
    (s.post r).plat = s.plat := rfl

@[simp] theorem State.post_unitCall (s : State) (r : Response) :
    (s.post r).unitCall = s.unitCall := rfl

@[simp] theorem State.post_draws (s : State) (r : Response) :
    (s.post r).draws = s.draws := rfl

/-! ## diag -/

@[simp] theorem State.diag_handle (s : State) (text : List Byte) :
    (s.diag text).handle = s.handle := by
  unfold State.diag; split <;> rfl

@[simp] theorem State.diag_dir (s : State) (text : List Byte) :
    (s.diag text).dir = s.dir := by
  unfold State.diag; split <;> rfl

@[simp] theorem State.diag_level (s : State) (text : List Byte) :
    (s.diag text).level = s.level := by
  unfold State.diag; split <;> rfl

@[simp] theorem State.diag_life (s : State) (text : List Byte) :
    (s.diag text).life = s.life := by
  unfold State.diag; split <;> rfl

@[simp] theorem State.diag_cur (s : State) (text : List Byte) :
    (s.diag text).cur = s.cur := by
  unfold State.diag; split <;> rfl

@[simp] theorem State.diag_value (s : State) (text : List Byte) :
    (s.diag text).value = s.value := by
  unfold State.diag; split <;> rfl

@[simp] theorem State.diag_mode (s : State) (text : List Byte) :
    (s.diag text).mode = s.mode := by
  unfold State.diag; split <;> rfl

@[simp] theorem State.diag_line (s : State) (text : List Byte) :
    (s.diag text).line = s.line := by
  unfold State.diag; split <;> rfl

@[simp] theorem State.diag_tl (s : State) (text : List Byte) :
    (s.diag text).tl = s.tl := by
  unfold State.diag; split <;> rfl

@[simp] theorem State.diag_timer (s : State) (text : List Byte) :
    (s.diag text).timer = s.timer := by
  unfold State.diag; split <;> rfl

@[simp] theorem State.diag_pinTrace (s : State) (text : List Byte) :
    (s.diag text).pinTrace = s.pinTrace := by
  unfold State.diag; split <;> rfl

@[simp] theorem State.diag_resp (s : State) (text : List Byte) :
    (s.diag text).resp = s.resp := by
  unfold State.diag; split <;> rfl

@[simp] theorem State.diag_rst (s : State) (text : List Byte) :
    (s.diag text).rst = s.rst := by
  unfold State.diag; split <;> rfl

@[simp] theorem State.diag_hostIn (s : State) (text : List Byte) :
    (s.diag text).hostIn = s.hostIn := by
  unfold State.diag; split <;> rfl

@[simp] theorem State.diag_program (s : State) (text : List Byte) :
    (s.diag text).program = s.program := by
  unfold State.diag; split <;> rfl

@[simp] theorem State.diag_plat (s : State) (text : List Byte) :
    (s.diag text).plat = s.plat := by
  unfold State.diag; split <;> rfl

@[simp] theorem State.diag_unitCall (s : State) (text : List Byte) :
    (s.diag text).unitCall = s.unitCall := by
  unfold State.diag; split <;> rfl

@[simp] theorem State.diag_draws (s : State) (text : List Byte) :
    (s.diag text).draws = s.draws := by
  unfold State.diag; split <;> rfl

/-! ## transfer -/

@[simp] theorem State.transfer_handle (s : State) (t : Transfer) :
    (s.transfer t).handle = s.handle := by
  cases t <;> simp [State.transfer]

@[simp] theorem State.transfer_dir (s : State) (t : Transfer) :
    (s.transfer t).dir = s.dir := by
  cases t <;> simp [State.transfer]

@[simp] theorem State.transfer_level (s : State) (t : Transfer) :
    (s.transfer t).level = s.level := by
  cases t <;> simp [State.transfer]

@[simp] theorem State.transfer_life (s : State) (t : Transfer) :
    (s.transfer t).life = s.life := by
  cases t <;> simp [State.transfer]

@[simp] theorem State.transfer_cur (s : State) (t : Transfer) :
    (s.transfer t).cur = s.cur := by
  cases t <;> simp [State.transfer]

@[simp] theorem State.transfer_timer (s : State) (t : Transfer) :
    (s.transfer t).timer = s.timer := by
  cases t <;> simp [State.transfer]

@[simp] theorem State.transfer_pinTrace (s : State) (t : Transfer) :
    (s.transfer t).pinTrace = s.pinTrace := by
  cases t <;> simp [State.transfer]

@[simp] theorem State.transfer_resp (s : State) (t : Transfer) :
    (s.transfer t).resp = s.resp := by
  cases t <;> simp [State.transfer]

@[simp] theorem State.transfer_rst (s : State) (t : Transfer) :
    (s.transfer t).rst = s.rst := by
  cases t <;> simp [State.transfer]

@[simp] theorem State.transfer_hostIn (s : State) (t : Transfer) :
    (s.transfer t).hostIn = s.hostIn := by
  cases t <;> simp [State.transfer]

@[simp] theorem State.transfer_program (s : State) (t : Transfer) :
    (s.transfer t).program = s.program := by
  cases t <;> simp [State.transfer]

@[simp] theorem State.transfer_plat (s : State) (t : Transfer) :
    (s.transfer t).plat = s.plat := by
  cases t <;> simp [State.transfer]

@[simp] theorem State.transfer_unitCall (s : State) (t : Transfer) :
    (s.transfer t).unitCall = s.unitCall := by
  cases t <;> simp [State.transfer]

/-! ## transfers -/

@[simp] theorem State.transfers_handle (s : State) (ts : List Transfer) :
    (s.transfers ts).handle = s.handle := by
  induction ts generalizing s with
  | nil => rfl
  | cons t rest ih => exact (ih (s.transfer t)).trans (State.transfer_handle s t)

@[simp] theorem State.transfers_dir (s : State) (ts : List Transfer) :
    (s.transfers ts).dir = s.dir := by
  induction ts generalizing s with
  | nil => rfl
  | cons t rest ih => exact (ih (s.transfer t)).trans (State.transfer_dir s t)

@[simp] theorem State.transfers_level (s : State) (ts : List Transfer) :
    (s.transfers ts).level = s.level := by
  induction ts generalizing s with
  | nil => rfl
  | cons t rest ih => exact (ih (s.transfer t)).trans (State.transfer_level s t)

@[simp] theorem State.transfers_life (s : State) (ts : List Transfer) :
    (s.transfers ts).life = s.life := by
  induction ts generalizing s with
  | nil => rfl
  | cons t rest ih => exact (ih (s.transfer t)).trans (State.transfer_life s t)

@[simp] theorem State.transfers_cur (s : State) (ts : List Transfer) :
    (s.transfers ts).cur = s.cur := by
  induction ts generalizing s with
  | nil => rfl
  | cons t rest ih => exact (ih (s.transfer t)).trans (State.transfer_cur s t)

@[simp] theorem State.transfers_timer (s : State) (ts : List Transfer) :
    (s.transfers ts).timer = s.timer := by
  induction ts generalizing s with
  | nil => rfl
  | cons t rest ih => exact (ih (s.transfer t)).trans (State.transfer_timer s t)

@[simp] theorem State.transfers_pinTrace (s : State) (ts : List Transfer) :
    (s.transfers ts).pinTrace = s.pinTrace := by
  induction ts generalizing s with
  | nil => rfl
  | cons t rest ih => exact (ih (s.transfer t)).trans (State.transfer_pinTrace s t)

@[simp] theorem State.transfers_resp (s : State) (ts : List Transfer) :
    (s.transfers ts).resp = s.resp := by
  induction ts generalizing s with
  | nil => rfl
  | cons t rest ih => exact (ih (s.transfer t)).trans (State.transfer_resp s t)

@[simp] theorem State.transfers_rst (s : State) (ts : List Transfer) :
    (s.transfers ts).rst = s.rst := by
  induction ts generalizing s with
  | nil => rfl
  | cons t rest ih => exact (ih (s.transfer t)).trans (State.transfer_rst s t)

@[simp] theorem State.transfers_hostIn (s : State) (ts : List Transfer) :
    (s.transfers ts).hostIn = s.hostIn := by
  induction ts generalizing s with
  | nil => rfl
  | cons t rest ih => exact (ih (s.transfer t)).trans (State.transfer_hostIn s t)

@[simp] theorem State.transfers_program (s : State) (ts : List Transfer) :
    (s.transfers ts).program = s.program := by
  induction ts generalizing s with
  | nil => rfl
  | cons t rest ih => exact (ih (s.transfer t)).trans (State.transfer_program s t)

@[simp] theorem State.transfers_plat (s : State) (ts : List Transfer) :
    (s.transfers ts).plat = s.plat := by
  induction ts generalizing s with
  | nil => rfl
  | cons t rest ih => exact (ih (s.transfer t)).trans (State.transfer_plat s t)

@[simp] theorem State.transfers_unitCall (s : State) (ts : List Transfer) :
    (s.transfers ts).unitCall = s.unitCall := by
  induction ts generalizing s with
  | nil => rfl
  | cons t rest ih => exact (ih (s.transfer t)).trans (State.transfer_unitCall s t)

/-! ## advance -/

@[simp] theorem State.advance_handle (s : State) (r : Running) (m : Micro) :
    (s.advance r m).handle = s.handle := by
  simp [State.advance]

@[simp] theorem State.advance_dir (s : State) (r : Running) (m : Micro) :
    (s.advance r m).dir = s.dir := by
  simp [State.advance]

@[simp] theorem State.advance_level (s : State) (r : Running) (m : Micro) :
    (s.advance r m).level = s.level := by
  simp [State.advance]

@[simp] theorem State.advance_life (s : State) (r : Running) (m : Micro) :
    (s.advance r m).life = s.life := by
  simp [State.advance]

@[simp] theorem State.advance_cur (s : State) (r : Running) (m : Micro) :
    (s.advance r m).cur = some { r with k := r.k + 1 } := by
  simp [State.advance]

@[simp] theorem State.advance_timer (s : State) (r : Running) (m : Micro) :
    (s.advance r m).timer = s.timer := by
  simp [State.advance]

@[simp] theorem State.advance_pinTrace (s : State) (r : Running) (m : Micro) :
    (s.advance r m).pinTrace = s.pinTrace := by
  simp [State.advance]

@[simp] theorem State.advance_resp (s : State) (r : Running) (m : Micro) :
    (s.advance r m).resp = s.resp := by
  simp [State.advance]

@[simp] theorem State.advance_rst (s : State) (r : Running) (m : Micro) :
    (s.advance r m).rst = s.rst := by
  simp [State.advance]

@[simp] theorem State.advance_hostIn (s : State) (r : Running) (m : Micro) :
    (s.advance r m).hostIn = s.hostIn := by
  simp [State.advance]

@[simp] theorem State.advance_program (s : State) (r : Running) (m : Micro) :
    (s.advance r m).program = s.program := by
  simp [State.advance]

@[simp] theorem State.advance_plat (s : State) (r : Running) (m : Micro) :
    (s.advance r m).plat = s.plat := by
  simp [State.advance]

@[simp] theorem State.advance_unitCall (s : State) (r : Running) (m : Micro) :
    (s.advance r m).unitCall = s.unitCall := by
  simp [State.advance]

end Sys2Proof.Machine
end

