-- ==== Sys2Proof/Laws/Ops.lean ====
section
/-! SUPPORT. Once for each shared operation of Machine/Ops.lean, everything it can do: performing an event,
running a list of events, accepting, raising, finishing. Later proofs cite these and unfold none of them. -/

namespace Sys2Proof.Machine

/-! ## Going on from a next state -/

@[simp] theorem andThen_next_left (s : State) (f : State → StepResult) : andThen (.next s) f = f s := rfl

@[simp] theorem andThen_refused_left (r : Refusal) (f : State → StepResult) :
    andThen (.refused r) f = .refused r := rfl

@[simp] theorem andThen_eq_next {o : StepResult} {f : State → StepResult} {t : State} :
    andThen o f = .next t ↔ ∃ s, o = .next s ∧ f s = .next t := by
  cases o <;> simp [andThen]

theorem andThen_assoc (o : StepResult) (f g : State → StepResult) :
    andThen (andThen o f) g = andThen o fun s => andThen (f s) g := by
  cases o <;> rfl

/-! ## Performing events -/

/-- The directions after one more event: OUTPUT after CFG (R34), else unchanged. -/
def dirsStep (d : Lines Dir) (e : Event) : Lines Dir :=
  match e with
  | .cfg r => setLine d r .output
  | .set _ _ | .wait _ => d

/-- The directions after a list of events. -/
def dirsAfter (d : Lines Dir) (es : List Event) : Lines Dir := es.foldl dirsStep d

/-- `t` is `s` after the events `es`: the trace has them, the lines are where they lead, and nothing else is
changed but the operand registers, TIMER, DIAGTRACE and the count of free values. -/
structure Ran (s t : State) (es : List Event) : Prop where
  pinTrace : t.pinTrace = s.pinTrace ++ es
  level : t.level = levelsAfter s.level es
  dir : t.dir = dirsAfter s.dir es
  rest : t = { s with
    pinTrace := t.pinTrace, level := t.level, dir := t.dir, value := t.value, mode := t.mode, line := t.line,
    tl := t.tl, timer := t.timer, diagTrace := t.diagTrace, draws := t.draws }

theorem Ran.refl (s : State) : Ran s s [] := ⟨by simp, rfl, rfl, rfl⟩

theorem Ran.trans {s t u : State} {a b : List Event} (h : Ran s t a) (k : Ran t u b) : Ran s u (a ++ b) where
  pinTrace := by rw [k.pinTrace, h.pinTrace, List.append_assoc]
  level := by rw [k.level, h.level]; simp [levelsAfter]
  dir := by rw [k.dir, h.dir]; simp [dirsAfter]
  rest := by
    rw [k.rest, h.rest]

section frame
variable {s t : State} {es : List Event} (h : Ran s t es)
include h

theorem Ran.handle : t.handle = s.handle := by rw [h.rest]
theorem Ran.life : t.life = s.life := by rw [h.rest]
theorem Ran.cur : t.cur = s.cur := by rw [h.rest]
theorem Ran.resp : t.resp = s.resp := by rw [h.rest]
theorem Ran.rst : t.rst = s.rst := by rw [h.rest]
theorem Ran.hostIn : t.hostIn = s.hostIn := by rw [h.rest]
theorem Ran.program : t.program = s.program := by rw [h.rest]
theorem Ran.plat : t.plat = s.plat := by rw [h.rest]
theorem Ran.unitCall : t.unitCall = s.unitCall := by rw [h.rest]

end frame

/-- The transfers move no line and perform no event. -/
theorem ran_transfers (s : State) (ts : List Transfer) : Ran s (s.transfers ts) [] := by
  refine ⟨by simp, by simp [levelsAfter], by simp [dirsAfter], ?_⟩
  have e : ∀ a b : State, a.handle = b.handle → a.dir = b.dir → a.level = b.level → a.life = b.life →
      a.cur = b.cur → a.value = b.value → a.mode = b.mode → a.line = b.line → a.tl = b.tl →
      a.timer = b.timer → a.pinTrace = b.pinTrace → a.diagTrace = b.diagTrace → a.resp = b.resp →
      a.rst = b.rst → a.hostIn = b.hostIn → a.program = b.program → a.plat = b.plat → a.unitCall = b.unitCall →
      a.draws = b.draws → a = b := by
    intro a b; cases a; cases b; simp; intros; simp_all
  apply e <;> simp

/-- What performing an event does, when it answers a next state (R32 to R34). -/
theorem perform_next {e : Event} {s t : State} (h : perform e s = .next t) : Ran s t [e] := by
  cases e with
  | set r b =>
    simp only [perform] at h
    split at h
    · cases h; exact ⟨rfl, rfl, rfl, rfl⟩
    · cases h
  | wait d => cases h; exact ⟨rfl, rfl, rfl, rfl⟩
  | cfg r =>
    simp only [perform] at h
    split at h
    · cases h; exact ⟨rfl, rfl, rfl, rfl⟩
    · cases h

/-- An event makes a diagnostic entry never, and moves an operand register never but TIMER. -/
theorem perform_next_rest {e : Event} {s t : State} (h : perform e s = .next t) :
    t = { s with pinTrace := t.pinTrace, level := t.level, dir := t.dir, timer := t.timer } := by
  cases e <;> simp only [perform] at h <;> (try split at h) <;> cases h <;> rfl

/-- No event but CFG asks for anything of a block whose lines are all outputs. -/
theorem perform_outputs {e : Event} {s : State} (h : AllOutputs s) (hc : ∀ r, e ≠ .cfg r) :
    ∃ t, perform e s = .next t := by
  cases e with
  | set r b =>
    have hd : getLine s.dir r = .output := by rw [show s.dir = _ from h]; simp
    exact ⟨_, by simp only [perform]; rw [if_pos hd]⟩
  | wait d => exact ⟨_, rfl⟩
  | cfg r => exact absurd rfl (hc r)

theorem perform_cfg_bound {r : Role} {s : State} (h : (getLine s.handle r).isSome) :
    ∃ t, perform (.cfg r) s = .next t :=
  ⟨_, by simp only [perform]; rw [if_pos h]⟩

/-! ## Running a list -/

@[simp] theorem runPlan_nil (s : State) : runPlan [] s = .next s := rfl

@[simp] theorem runPlan_cons (m : Micro) (ms : List Micro) (s : State) :
    runPlan (m :: ms) s = andThen (runMicro m s) (runPlan ms) := rfl

theorem runPlan_append (a b : List Micro) (s : State) :
    runPlan (a ++ b) s = andThen (runPlan a s) (runPlan b) := by
  induction a generalizing s with
  | nil => rfl
  | cons m ms ih =>
    simp only [List.cons_append, runPlan_cons, andThen_assoc]
    congr 1
    funext u
    exact ih u

theorem runMicro_next {m : Micro} {s t : State} (h : runMicro m s = .next t) : Ran s t [m.event] :=
  (ran_transfers s m.pre).trans (perform_next h)

/-- What running a list does, when it answers a next state: its events, in order (R113). -/
theorem runPlan_next {ms : List Micro} {s t : State} (h : runPlan ms s = .next t) :
    Ran s t (planEvents ms) := by
  induction ms generalizing s with
  | nil => cases h; exact Ran.refl _
  | cons m rest ih =>
    obtain ⟨u, hu, ht⟩ := andThen_eq_next.1 h
    exact (runMicro_next hu).trans (ih ht)

theorem dirsAfter_no_cfg {es : List Event} (d : Lines Dir) (hc : ∀ r, Event.cfg r ∉ es) :
    dirsAfter d es = d := by
  induction es generalizing d with
  | nil => rfl
  | cons e rest ih =>
    have : dirsStep d e = d := by
      cases e with
      | cfg r => exact absurd (List.mem_cons_self ..) (hc r)
      | set _ _ => rfl
      | wait _ => rfl
    simpa [dirsAfter, this] using ih d fun r hr => hc r (List.mem_cons_of_mem _ hr)

/-- A list without CFG runs to its end on a block whose lines are all outputs. -/
theorem runPlan_outputs {ms : List Micro} {s : State} (h : AllOutputs s)
    (hc : ∀ r, Event.cfg r ∉ planEvents ms) : ∃ t, runPlan ms s = .next t := by
  induction ms generalizing s with
  | nil => exact ⟨s, rfl⟩
  | cons m rest ih =>
    have hm : ∀ r, m.event ≠ .cfg r := fun r hr => hc r (by simp [planEvents, hr])
    have hs : AllOutputs (s.transfers m.pre) := by simpa [AllOutputs] using h
    obtain ⟨u, hu⟩ := perform_outputs hs hm
    have hd : AllOutputs u := by
      have := (perform_next hu).dir
      rw [dirsAfter_no_cfg _ (by simpa using fun r => (hm r).symm)] at this
      exact this.trans hs
    obtain ⟨t, ht⟩ := ih hd fun r hr => hc r (by simp only [planEvents, List.map_cons, List.mem_cons]; exact .inr hr)
    exact ⟨t, andThen_eq_next.2 ⟨u, hu, ht⟩⟩

/-- A list of events without transfers moves no operand register but TIMER, and makes no diagnostic entry. -/
theorem runPlan_plain_rest {es : List Event} {s t : State} (h : runPlan (plain es) s = .next t) :
    t = { s with pinTrace := t.pinTrace, level := t.level, dir := t.dir, timer := t.timer } := by
  induction es generalizing s with
  | nil => cases h; rfl
  | cons e rest ih =>
    obtain ⟨u, hu, ht⟩ := andThen_eq_next.1 h
    have h1 := perform_next_rest hu
    have h2 := ih ht
    rw [h2, h1]
    rfl

@[simp] theorem planEvents_nil : planEvents [] = [] := rfl

@[simp] theorem planEvents_cons (m : Micro) (ms : List Micro) :
    planEvents (m :: ms) = m.event :: planEvents ms := rfl

@[simp] theorem planEvents_append (a b : List Micro) : planEvents (a ++ b) = planEvents a ++ planEvents b := by
  simp [planEvents]

@[simp] theorem planEvents_plain (es : List Event) : planEvents (plain es) = es := by
  induction es with
  | nil => rfl
  | cons e rest ih => simpa [plain] using ih

@[simp] theorem planEvents_withPre (ts : List Transfer) (ms : List Micro) :
    planEvents (withPre ts ms) = planEvents ms := by
  cases ms <;> rfl

@[simp] theorem planEvents_sendPlan (v : Byte) (m : Bool) : planEvents (sendPlan v m) = sendEvents v m := by
  simp [sendPlan]

@[simp] theorem planEvents_flatMap {α : Type} (f : α → List Micro) (l : List α) :
    planEvents (l.flatMap f) = l.flatMap fun a => planEvents (f a) := by
  induction l with
  | nil => rfl
  | cons a rest ih => simp [ih]

/-! ## Requests, errors, the end of an operation -/

/-- An accepted request: the block was idle and the operation fits the lifecycle (R95). -/
theorem accept_next {need : Life} {s t : State} {go : State → StepResult} (h : accept need s go = .next t) :
    s.cur = none ∧ s.life = need ∧ go s = .next t := by
  unfold accept at h
  split at h
  · cases h
  · split at h
    · exact ⟨Option.not_isSome_iff_eq_none.1 ‹¬ s.cur.isSome›, ‹_›, h⟩
    · cases h

theorem accept_idle {need : Life} {s : State} (go : State → StepResult) (hc : s.cur = none)
    (hl : s.life = need) : accept need s go = go s := by
  simp [accept, hc, hl]

/-- An error: its response is posted and nothing else changes (R126). -/
theorem raise_next {e : Response} {s t : State} (h : raise e s = .next t) : s.cur = none ∧ t = s.post e := by
  unfold raise at h
  split at h
  · cases h
  · cases h
    exact ⟨Option.not_isSome_iff_eq_none.1 ‹¬ s.cur.isSome›, rfl⟩

theorem raise_idle {e : Response} {s : State} (hc : s.cur = none) : raise e s = .next (s.post e) := by
  simp [raise, hc]

/-- The end of an operation (R113). -/
theorem finish_next {s t : State} (h : finish s = .next t) :
    ∃ r, s.cur = some r ∧ r.plan.length ≤ r.k ∧
      t = { s.dropOperands with life := lifeAfter r.op s.life, cur := none }.post .ok := by
  unfold finish at h
  split at h
  · cases h
  · rename_i r hr
    split at h
    · cases h
    · cases h
      exact ⟨r, hr, by omega, rfl⟩

theorem finish_end {s : State} {r : Running} (hr : s.cur = some r) (hk : r.plan.length ≤ r.k) :
    finish s = .next ({ s.dropOperands with life := lifeAfter r.op s.life, cur := none }.post .ok) := by
  unfold finish
  rw [hr]
  simp [Nat.not_lt.2 hk]

end Sys2Proof.Machine
end

