-- ==== Sys2Proof/Laws/Exec.lean ====
section
/-! SUPPORT. Everything any instruction, and any step, can do to the lines, the trace, the inputs and the
platform: one inversion lemma for exec, one for step. -/

namespace Sys2Proof.Machine

/-- `t` is `s` after the events `es`, as far as the lines, the trace, the inputs and the platform go. -/
structure Moved (s t : State) (es : List Event) : Prop where
  pinTrace : t.pinTrace = s.pinTrace ++ es
  level : t.level = levelsAfter s.level es
  dir : t.dir = dirsAfter s.dir es
  plat : t.plat = s.plat
  rst : t.rst = s.rst
  hostIn : t.hostIn = s.hostIn
  program : t.program = s.program
  unitCall : t.unitCall = s.unitCall

theorem Ran.moved {s t : State} {es : List Event} (h : Ran s t es) : Moved s t es :=
  ⟨h.pinTrace, h.level, h.dir, h.plat, h.rst, h.hostIn, h.program, h.unitCall⟩

/-- An update that leaves the lines, the trace, the inputs and the platform alone. -/
theorem Moved.of_same {s t : State} (h1 : t.pinTrace = s.pinTrace) (h2 : t.level = s.level) (h3 : t.dir = s.dir)
    (h4 : t.plat = s.plat) (h5 : t.rst = s.rst) (h6 : t.hostIn = s.hostIn) (h7 : t.program = s.program)
    (h8 : t.unitCall = s.unitCall) : Moved s t [] :=
  ⟨by simp [h1], h2, h3, h4, h5, h6, h7, h8⟩

theorem Moved.trans {s t u : State} {a b : List Event} (h : Moved s t a) (k : Moved t u b) :
    Moved s u (a ++ b) where
  pinTrace := by rw [k.pinTrace, h.pinTrace, List.append_assoc]
  level := by rw [k.level, h.level]; simp [levelsAfter]
  dir := by rw [k.dir, h.dir]; simp [dirsAfter]
  plat := k.plat.trans h.plat
  rst := k.rst.trans h.rst
  hostIn := k.hostIn.trans h.hostIn
  program := k.program.trans h.program
  unitCall := k.unitCall.trans h.unitCall

theorem raise_moved {e : Response} {s t : State} (h : raise e s = .next t) : Moved s t [] := by
  rw [(raise_next h).2]
  exact .of_same rfl rfl rfl rfl rfl rfl rfl rfl

theorem start_moved (s : State) (op : Instr) (plan : List Micro) : Moved s (s.start op plan) [] :=
  .of_same rfl rfl rfl rfl rfl rfl rfl rfl

/-- A whole SEND, and whatever registers are dropped after it. -/
theorem sendWhole_moved {v : Byte} {m : Bool} {s t : State} (h : sendWhole v m s = .next t) :
    Moved s t (sendEvents v m) := by
  obtain ⟨u, hu, ht⟩ := andThen_eq_next.1 h
  cases ht
  have k := (runPlan_next hu).moved.trans (.of_same (t := u.dropSend) rfl rfl rfl rfl rfl rfl rfl rfl)
  simpa using k

/-! ## The host operations: what an answered request is -/

/-- CLEAR: accepted, and it starts (R98). -/
theorem execClear_next {s t : State} (h : execClear s = .next t) :
    s.cur = none ∧ s.life = .ready ∧ t = s.start .clear clearPlan := by
  obtain ⟨hc, hl, h⟩ := accept_next h
  cases h
  exact ⟨hc, hl, rfl⟩

/-- SHOW_LINE: accepted, and it raises InvalidLineNumber or starts (R99). -/
theorem execShowLine_next {text : List Byte} {line : Byte} {s t : State}
    (h : execShowLine text line s = .next t) :
    s.cur = none ∧ s.life = .ready ∧
      ((writeLinePlan text line = none ∧ t = s.post .invalidLineNumber) ∨
        ∃ p, writeLinePlan text line = some p ∧ t = s.start (.showLine text line) p) := by
  obtain ⟨hc, hl, h⟩ := accept_next h
  refine ⟨hc, hl, ?_⟩
  split at h
  · exact .inl ⟨‹_›, (raise_next h).2⟩
  · cases h
    exact .inr ⟨_, ‹_›, rfl⟩

/-- SHOW: accepted, and it starts (R100). -/
theorem execShowBoth_next {text : List Byte} {s t : State} (h : execShowBoth text s = .next t) :
    s.cur = none ∧ s.life = .ready ∧ t = s.start (.showBoth text) (showPlan text) := by
  obtain ⟨hc, hl, h⟩ := accept_next h
  cases h
  exact ⟨hc, hl, rfl⟩

/-- CONSTRUCT: accepted, and it raises InvalidPinID or binds the six handles and starts (R101). -/
theorem execConstruct_next {ids : Lines PinId} {s t : State} (h : execConstruct ids s = .next t) :
    s.cur = none ∧ s.life = .unconstructed ∧
      ((resolveAll s.plat ids = none ∧ t = s.post .invalidPinID) ∨
        ∃ b, resolveAll s.plat ids = some b ∧
          t = { s with handle := boundLines b }.start (.construct ids) constructPlan) := by
  obtain ⟨hc, hl, h⟩ := accept_next h
  refine ⟨hc, hl, ?_⟩
  split at h
  · exact .inl ⟨‹_›, (raise_next h).2⟩
  · cases h
    exact .inr ⟨_, ‹_›, rfl⟩

theorem post_moved (s : State) (e : Response) : Moved s (s.post e) [] :=
  .of_same rfl rfl rfl rfl rfl rfl rfl rfl

/-- Everything an instruction that answers a next state can do to the lines, the trace, the inputs and the
platform: it performs some events, and their effect on the lines is theirs alone. -/
theorem exec_moved {i : Instr} {s t : State} (h : exec i s = .next t) : ∃ es, Moved s t es := by
  cases i with
  | construct ids =>
    obtain ⟨-, -, ⟨-, rfl⟩ | ⟨b, -, rfl⟩⟩ := execConstruct_next h
    · exact ⟨[], post_moved ..⟩
    · exact ⟨[], .of_same rfl rfl rfl rfl rfl rfl rfl rfl⟩
  | clear =>
    obtain ⟨-, -, rfl⟩ := execClear_next h
    exact ⟨[], start_moved ..⟩
  | showLine text line =>
    obtain ⟨-, -, ⟨-, rfl⟩ | ⟨p, -, rfl⟩⟩ := execShowLine_next h
    · exact ⟨[], post_moved ..⟩
    · exact ⟨[], start_moved ..⟩
  | showBoth text =>
    obtain ⟨-, -, rfl⟩ := execShowBoth_next h
    exact ⟨[], start_moved ..⟩
  | writeLine text line =>
    simp only [exec, execWriteLine] at h
    split at h
    · exact ⟨[], raise_moved h⟩
    · obtain ⟨u, hu, ht⟩ := andThen_eq_next.1 h
      cases ht
      exact ⟨_, (runPlan_next hu).moved.trans (.of_same (t := u.dropOperands) rfl rfl rfl rfl rfl rfl rfl rfl)⟩
  | toggleE => exact ⟨_, (runPlan_next h).moved⟩
  | driveNibble n => exact ⟨_, (runPlan_next h).moved⟩
  | initializeLcd => exact ⟨_, (runPlan_next h).moved⟩
  | frame m n => exact ⟨_, (runPlan_next h).moved⟩
  | send v m => exact ⟨_, sendWhole_moved h⟩
  | sendCmd v => exact ⟨_, sendWhole_moved h⟩
  | sendChr v => exact ⟨_, sendWhole_moved h⟩
  | chr c => exact ⟨_, sendWhole_moved h⟩
  | init0 => exact ⟨_, sendWhole_moved h⟩
  | init1 => exact ⟨_, sendWhole_moved h⟩
  | init2 => exact ⟨_, sendWhole_moved h⟩
  | init3 => exact ⟨_, sendWhole_moved h⟩
  | init4 => exact ⟨_, sendWhole_moved h⟩
  | init5 => exact ⟨_, sendWhole_moved h⟩
  | addrL1 => exact ⟨_, sendWhole_moved h⟩
  | addrL2 => exact ⟨_, sendWhole_moved h⟩
  | set r b => exact ⟨_, (perform_next (e := .set r b) h).moved⟩
  | wait d => exact ⟨_, (perform_next (e := .wait d) h).moved⟩
  | cfg r => exact ⟨_, (perform_next (e := .cfg r) h).moved⟩
  | ok =>
    obtain ⟨r, -, -, rfl⟩ := finish_next h
    exact ⟨[], .of_same rfl rfl rfl rfl rfl rfl rfl rfl⟩
  | invalidPinID => exact ⟨[], raise_moved h⟩
  | invalidLineNumber => exact ⟨[], raise_moved h⟩

/-- The event of a running operation is performed as its own row. -/
@[simp] theorem exec_instrOfEvent (e : Event) (s : State) : exec (instrOfEvent e) s = perform e s := by
  cases e <;> rfl

/-- Where no input but the host is at work, a step looks at the port first. -/
theorem step_quiet {s : State} (h : Quiet s) :
    step s = match decode .hostreq s.hostIn with
      | .instr i rest => exec i { s with hostIn := rest }
      | .refused .incomplete =>
        match s.proceed with
        | .reset => .next s.applyReset
        | .idle => .next s
        | .sent t => .next t
        | .instr i t => exec i t
        | .reserved why => .refused (.reservedRequest why)
      | .refused why => .refused (.reservedRequest why) := by
  unfold step State.fetch
  simp only [h.1, h.2, Bool.false_eq_true, if_false]
  cases decode .hostreq s.hostIn with
  | instr i rest => rfl
  | refused w => cases w <;> rfl

/-- A busy block performs the event at its position, when no whole request is at the port (R113). -/
theorem step_busy {s : State} {r : Running} {m : Micro} (h : Quiet s) (hn : NoRequest s) (hc : s.cur = some r)
    (hm : r.plan[r.k]? = some m) : step s = perform m.event (s.advance r m) := by
  rw [step_quiet h, show decode .hostreq s.hostIn = _ from hn]
  simp [State.proceed, hc, hm]

/-- Past its last event it ends its operation (R113). -/
theorem step_end {s : State} {r : Running} (h : Quiet s) (hn : NoRequest s) (hc : s.cur = some r)
    (hk : r.plan.length ≤ r.k) : step s = finish s := by
  rw [step_quiet h, show decode .hostreq s.hostIn = _ from hn]
  have hm : r.plan[r.k]? = none := by simpa using hk
  simp only [State.proceed, hc, hm]
  rfl

/-- An idle block waits, or the host sends it the next request of its program (R115). -/
theorem step_idle {s t : State} (h : Quiet s) (hn : NoRequest s) (hc : s.cur = none) (hs : step s = .next t) :
    t = s ∨ ∃ q later, s.hostIn = [] ∧ s.program = q :: later ∧ t = { s with hostIn := q, program := later } := by
  rw [step_quiet h, show decode .hostreq s.hostIn = _ from hn] at hs
  simp only [State.proceed, hc] at hs
  cases hp : s.hostIn with
  | cons b bs =>
    simp only [hp] at hs
    cases hs
    exact .inl rfl
  | nil =>
    cases hq : s.program with
    | nil =>
      simp only [hp, hq] at hs
      cases hs
      exact .inl rfl
    | cons q later =>
      simp only [hp, hq] at hs
      cases hs
      exact .inr ⟨q, later, rfl, rfl, by rw [← hc]⟩

/-- Everything a step that answers a next state can be (R95, R113, R115, R140). -/
theorem step_next {s t : State} (h : step s = .next t) :
    (s.rst = true ∧ t = s.applyReset) ∨
    (s.rst = false ∧ (
      (∃ i, s.unitCall = some i ∧ exec i { s with unitCall := none } = .next t) ∨
      (s.unitCall = none ∧ (
        (∃ i rest, decode .hostreq s.hostIn = .instr i rest ∧ exec i { s with hostIn := rest } = .next t) ∨
        (NoRequest s ∧ (
          (∃ r m, s.cur = some r ∧ r.plan[r.k]? = some m ∧ perform m.event (s.advance r m) = .next t) ∨
          (∃ r, s.cur = some r ∧ r.plan.length ≤ r.k ∧ finish s = .next t) ∨
          (s.cur = none ∧ (t = s ∨ ∃ q later, s.hostIn = [] ∧ s.program = q :: later ∧
            t = { s with hostIn := q, program := later })))))))) := by
  by_cases hr : s.rst = true
  · refine .inl ⟨hr, ?_⟩
    unfold step State.fetch at h
    simp only [hr, if_true] at h
    cases h
    rfl
  · have hr : s.rst = false := by simpa using hr
    refine .inr ⟨hr, ?_⟩
    obtain hu | ⟨i, hu⟩ := Option.eq_none_or_eq_some s.unitCall
    · refine .inr ⟨hu, ?_⟩
      have hq : Quiet s := ⟨hr, hu⟩
      match hd : decode .hostreq s.hostIn with
      | .instr i rest =>
        rw [step_quiet hq, hd] at h
        exact .inl ⟨i, rest, rfl, h⟩
      | .refused w =>
        by_cases hw : w = .incomplete
        · have hn : NoRequest s := by rw [NoRequest, hd, hw]
          refine .inr ⟨hn, ?_⟩
          obtain hc | ⟨r, hc⟩ := Option.eq_none_or_eq_some s.cur
          · exact .inr (.inr ⟨hc, step_idle hq hn hc h⟩)
          · obtain hm | ⟨m, hm⟩ := Option.eq_none_or_eq_some r.plan[r.k]?
            · have hk : r.plan.length ≤ r.k := by simpa using hm
              exact .inr (.inl ⟨r, hc, hk, by rw [← step_end hq hn hc hk, h]⟩)
            · exact .inl ⟨r, m, hc, hm, by rw [← step_busy hq hn hc hm, h]⟩
        · rw [step_quiet hq, hd] at h
          cases w <;> first | cases h | exact absurd rfl hw
    · unfold step State.fetch at h
      simp only [hr, hu, Bool.false_eq_true, if_false] at h
      exact .inl ⟨i, hu, by rw [← hr] at h; exact h⟩

/-! ## Running steps -/

@[simp] theorem runSteps_zero (s : State) : runSteps 0 s = .next s := rfl

/-- The host's run, one step unrolled. -/
theorem coreRun_succ (M : Host.Core) (k : Nat) (s : M.State) :
    M.run (k + 1) s = match M.step s with
      | .next u => M.run k u
      | .fault r => .fault r
      | .refused r => .refused r := rfl

/-- One step, then the rest. -/
theorem runSteps_succ (n : Nat) (s : State) : runSteps (n + 1) s = andThen (step s) (runSteps n) := by
  refine (coreRun_succ Sys2Proof.core n s).trans ?_
  show _ = andThen (Sys2Proof.core.step s) _
  cases Sys2Proof.core.step s <;> rfl

theorem runSteps_add (a b : Nat) (s : State) : runSteps (a + b) s = andThen (runSteps a s) (runSteps b) := by
  induction a generalizing s with
  | zero => simp
  | succ n ih =>
    rw [Nat.succ_add, runSteps_succ, runSteps_succ, andThen_assoc]
    congr 1
    funext u
    exact ih u

end Sys2Proof.Machine
end

