-- ==== Sys2Proof/Laws/Observe.lean ====
section
/-! SUPPORT. The observation functions over joined traces, and what one pulse and one nibble look like to them. -/

namespace Sys2Proof.Machine

@[simp] theorem levelsAfter_nil (l : Lines Level) : levelsAfter l [] = l := rfl

@[simp] theorem levelsAfter_cons (l : Lines Level) (e : Event) (es : List Event) :
    levelsAfter l (e :: es) = levelsAfter (levelsStep l e) es := rfl

theorem levelsAfter_append (l : Lines Level) (a b : List Event) :
    levelsAfter l (a ++ b) = levelsAfter (levelsAfter l a) b := by
  simp [levelsAfter]

@[simp] theorem waveFrom_nil (w : Wave) : waveFrom w [] = some w := rfl

@[simp] theorem waveFrom_cons (w : Wave) (e : Event) (es : List Event) :
    waveFrom w (e :: es) = (waveStep w e).bind fun u => waveFrom u es := rfl

theorem waveFrom_append (w : Wave) (a b : List Event) :
    waveFrom w (a ++ b) = (waveFrom w a).bind fun u => waveFrom u b := by
  simp only [waveFrom, List.foldlM_append]
  rfl

/-- A violation inside a trace is a violation of the whole trace. -/
theorem waveFrom_left {w u : Wave} {a b : List Event} (h : waveFrom w (a ++ b) = some u) :
    ∃ v, waveFrom w a = some v ∧ waveFrom v b = some u := by
  rw [waveFrom_append] at h
  exact Option.bind_eq_some_iff.1 h

@[simp] theorem strobesFrom_nil (l : Lines Level) : strobesFrom l [] = some [] := rfl

/-- Strobes of joined traces, the second read at the levels the first leaves. -/
theorem strobesFrom_append (l : Lines Level) (a b : List Event) :
    strobesFrom l (a ++ b) =
      (strobesFrom l a).bind fun p => (strobesFrom (levelsAfter l a) b).map fun q => p ++ q := by
  induction a generalizing l with
  | nil => simp
  | cons e rest ih =>
    simp only [List.cons_append, strobesFrom, levelsAfter_cons, ih]
    split
    · cases sampleFrame l <;> simp [Option.bind_assoc]
      cases strobesFrom (levelsStep l e) rest <;> simp
      cases strobesFrom (levelsAfter (levelsStep l e) rest) b <;> simp
    · rfl

theorem strobesFrom_step {l : Lines Level} {e : Event} (es : List Event) (h : endsStrobe l e = false) :
    strobesFrom l (e :: es) = strobesFrom (levelsStep l e) es := by
  simp [strobesFrom, h]

@[simp] theorem toBool?_levelOfBool (b : Bool) : (levelOfBool b).toBool? = some b := by
  cases b <;> rfl

/-- One pulse, whatever the level of E before it: one strobe with the levels the lines hold, and E low after (R80, R81). -/
theorem strobesFrom_toggle (l : Lines Level) (es : List Event) :
    strobesFrom l (toggleEvents ++ es) =
      (sampleFrame l).bind fun p => (strobesFrom { l with e := .low } es).map fun q => p :: q := by
  obtain ⟨rs, e, d4, d5, d6, d7⟩ := l
  have h : sampleFrame ⟨rs, .high, d4, d5, d6, d7⟩ = sampleFrame ⟨rs, e, d4, d5, d6, d7⟩ := rfl
  simp only [toggleEvents, List.cons_append, List.nil_append, strobesFrom, endsStrobe, levelsStep, levelOfBool,
    setLine, decide_true, if_true, Bool.false_eq_true, if_false, h]
  cases sampleFrame ⟨rs, e, d4, d5, d6, d7⟩
  · rfl
  · cases strobesFrom ⟨rs, .low, d4, d5, d6, d7⟩ es <;> rfl

@[simp] theorem levelsAfter_toggle (l : Lines Level) : levelsAfter l toggleEvents = { l with e := .low } := rfl

/-- DRIVE_NIBBLE leaves bit `i` of the nibble on line D(4+i) (R44, R85). -/
@[simp] theorem levelsAfter_nibble (l : Lines Level) (n : Nibble) :
    levelsAfter l (nibbleEvents n) =
      { l with
        d4 := levelOfBool (n.getLsbD 0), d5 := levelOfBool (n.getLsbD 1),
        d6 := levelOfBool (n.getLsbD 2), d7 := levelOfBool (n.getLsbD 3) } := by
  simp only [nibbleEvents]
  generalize n.getLsbD 0 = a
  generalize n.getLsbD 1 = b
  generalize n.getLsbD 2 = c
  generalize n.getLsbD 3 = d
  cases a <;> cases b <;> cases c <;> cases d <;> rfl

/-- DRIVE_NIBBLE makes no strobe. -/
theorem strobesFrom_nibble (l : Lines Level) (n : Nibble) (es : List Event) :
    strobesFrom l (nibbleEvents n ++ es) = strobesFrom (levelsAfter l (nibbleEvents n)) es := by
  have h : strobesFrom l (nibbleEvents n) = some [] := by
    simp only [nibbleEvents]
    generalize n.getLsbD 0 = a
    generalize n.getLsbD 1 = b
    generalize n.getLsbD 2 = c
    generalize n.getLsbD 3 = d
    cases a <;> cases b <;> cases c <;> cases d <;> rfl
  rw [strobesFrom_append, h]
  simp

end Sys2Proof.Machine
end

