-- ==== Sys2Proof/Laws/PerInstr.lean ====
section
/-! SUPPORT. Per instruction: the encoding starts with the bits that spec/opcode_table.json fixes for its row,
under the row's own mask, in its width (the columns "match", "mask" and "width" of the table). -/

namespace Sys2Proof.Laws.RowBits

/-- The columns "match" and "mask" of a row. -/
structure RowPattern where
  value : Nat
  mask  : Nat
  deriving DecidableEq, Repr

/-- The table's row of an instruction. -/
def rowPattern (i : Instr) : RowPattern :=
  match i with
  | .construct _ => { value := 0x0000, mask := 0xFFFF }
  | .clear => { value := 0x2000, mask := 0xFFFF }
  | .showLine _ _ => { value := 0x4000, mask := 0xFF00 }
  | .showBoth _ => { value := 0x6000, mask := 0xFFFF }
  | .toggleE => { value := 0x0, mask := 0x7 }
  | .driveNibble _ => { value := 0x1, mask := 0x7 }
  | .send _ _ => { value := 0x2, mask := 0x7 }
  | .initializeLcd => { value := 0x3, mask := 0x7 }
  | .writeLine _ _ => { value := 0x4, mask := 0x7 }
  | .sendCmd _ => { value := 0x000, mask := 0x100 }
  | .sendChr _ => { value := 0x100, mask := 0x100 }
  | .init0 => { value := 0x33, mask := 0xFF }
  | .init1 => { value := 0x32, mask := 0xFF }
  | .init2 => { value := 0x06, mask := 0xFF }
  | .init3 => { value := 0x0C, mask := 0xFF }
  | .init4 => { value := 0x28, mask := 0xFF }
  | .init5 => { value := 0x01, mask := 0xFF }
  | .addrL1 => { value := 0x80, mask := 0xFF }
  | .addrL2 => { value := 0xC0, mask := 0xFF }
  | .chr _ => { value := 0x00, mask := 0x00 }
  | .frame _ _ => { value := 0x00, mask := 0x00 }
  | .set _ _ => { value := 0x0, mask := 0x3 }
  | .wait _ => { value := 0x1, mask := 0x3 }
  | .cfg _ => { value := 0x2, mask := 0x3 }
  | .ok => { value := 0x0, mask := 0x3 }
  | .invalidPinID => { value := 0x1, mask := 0x3 }
  | .invalidLineNumber => { value := 0x2, mask := 0x3 }

/-- The number that the first bytes of an encoding write, most significant byte first, for a format of this width. -/
def wordNumber (bits : Nat) (bs : List Byte) : Nat :=
  (bs.take ((bits + 7) / 8)).foldl (fun n b => n * 256 + b.toNat) 0

/-- The word of an instruction has its row's fixed bits, and no bit above the row's width. -/
def Statement (i : Instr) : Prop :=
  wordNumber (formatBits (formatOf i)) (encode i) &&& (rowPattern i).mask = (rowPattern i).value ∧
    wordNumber (formatBits (formatOf i)) (encode i) < 2 ^ formatBits (formatOf i)

theorem construct (ids : Lines PinId) : Statement (.construct ids) := by
  simp [Statement, wordNumber, formatBits, formatOf, encode, rowPattern]

theorem clear : Statement .clear := by
  unfold Statement
  decide

theorem showLine (text : List Byte) (line : Byte) : Statement (.showLine text line) := by
  simp only [Statement, wordNumber, formatBits, formatOf, encode, rowPattern]
  show (64 * 256 + line.toNat) &&& 0xFF00 = 0x4000 ∧ 64 * 256 + line.toNat < 2 ^ 16
  revert line
  decide

theorem showBoth (text : List Byte) : Statement (.showBoth text) := by
  simp [Statement, wordNumber, formatBits, formatOf, encode, rowPattern]

theorem toggleE : Statement .toggleE := by
  unfold Statement
  decide

theorem driveNibble (n : Nibble) : Statement (.driveNibble n) := by
  simp [Statement, wordNumber, formatBits, formatOf, encode, rowPattern]

theorem send (v : Byte) (m : Bool) : Statement (.send v m) := by
  simp [Statement, wordNumber, formatBits, formatOf, encode, rowPattern]

theorem initializeLcd : Statement .initializeLcd := by
  unfold Statement
  decide

theorem writeLine (text : List Byte) (line : Byte) : Statement (.writeLine text line) := by
  simp [Statement, wordNumber, formatBits, formatOf, encode, rowPattern]

theorem sendCmd (v : Byte) : Statement (.sendCmd v) := by
  simp only [Statement, wordNumber, formatBits, formatOf, encode, rowPattern]
  revert v
  decide

theorem sendChr (v : Byte) : Statement (.sendChr v) := by
  simp only [Statement, wordNumber, formatBits, formatOf, encode, rowPattern]
  revert v
  decide

theorem init0 : Statement .init0 := by
  unfold Statement
  decide

theorem init1 : Statement .init1 := by
  unfold Statement
  decide

theorem init2 : Statement .init2 := by
  unfold Statement
  decide

theorem init3 : Statement .init3 := by
  unfold Statement
  decide

theorem init4 : Statement .init4 := by
  unfold Statement
  decide

theorem init5 : Statement .init5 := by
  unfold Statement
  decide

theorem addrL1 : Statement .addrL1 := by
  unfold Statement
  decide

theorem addrL2 : Statement .addrL2 := by
  unfold Statement
  decide

theorem chr (c : Byte) : Statement (.chr c) := by
  simp only [Statement, wordNumber, formatBits, formatOf, encode, rowPattern]
  revert c
  decide

theorem frame (m : Bool) (n : Nibble) : Statement (.frame m n) := by
  revert m n
  unfold Statement
  decide

theorem set (r : Role) (b : Bool) : Statement (.set r b) := by
  simp [Statement, wordNumber, formatBits, formatOf, encode, rowPattern]

theorem wait (d : Delay) : Statement (.wait d) := by
  simp [Statement, wordNumber, formatBits, formatOf, encode, rowPattern]

theorem cfg (r : Role) : Statement (.cfg r) := by
  simp [Statement, wordNumber, formatBits, formatOf, encode, rowPattern]

theorem ok : Statement .ok := by
  unfold Statement
  decide

theorem invalidPinID : Statement .invalidPinID := by
  unfold Statement
  decide

theorem invalidLineNumber : Statement .invalidLineNumber := by
  unfold Statement
  decide

end Sys2Proof.Laws.RowBits
end

