-- ==== Sys2Proof/Tests/Slice0.lean ====
section
/-! SUPPORT. The model's own tests. Expected results come from the spec's encodings (30_encoding.md) and from
95_test_vectors.md, whose sections the docstrings name. -/

open Sys2Proof Sys2Proof.Machine

namespace Sys2Proof.Tests

/-! ## Small states and observations -/

/-- A field of the next state, none where there is none. -/
def after {α : Type} (o : StepResult) (f : State → α) : Option α :=
  match o with
  | .next s => some (f s)
  | .fault _ | .refused _ => none

/-- Which refusal an answer is. -/
def stopOf (o : StepResult) : Option Refusal :=
  match o with
  | .refused r => some r
  | .next _ | .fault _ => none

/-- An idle block whose six lines are outputs and READY, with an empty trace. -/
def ready : State := State.reset.asConstructed

/-- The identifiers of the first row of section 2.9. -/
def goodPins : Lines PinId := ⟨26#8, 19#8, 13#8, 6#8, 5#8, 11#8⟩

/-- `Wd` of the vectors. -/
abbrev wd : Event := .wait .eDelay

/-- `Wp` of the vectors. -/
abbrev wp : Event := .wait .ePulse

/-- "HELLO" in ASCII. -/
def hello : List Byte := [0x48#8, 0x45#8, 0x4C#8, 0x4C#8, 0x4F#8]

/-- "ABCDEFGHIJKLMNOPQ" in ASCII, 17 characters. -/
def letters17 : List Byte := (List.range 17).map fun n => BitVec.ofNat 8 (0x41 + n)

/-! ## Well-formed instructions -/

/-- A text that does not fit its length field is ill-formed, in each of the three rows with a text. -/
theorem test_long_text : ¬ TextFits (List.replicate 65536 0x41#8) := by
  unfold TextFits
  rw [List.length_replicate]
  decide

theorem test_showLine_illFormed : ¬ WellFormed (.showLine (List.replicate 65536 0x41#8) 1#8) := test_long_text

theorem test_showBoth_illFormed : ¬ WellFormed (.showBoth (List.replicate 65536 0x41#8)) := test_long_text

theorem test_writeLine_illFormed : ¬ WellFormed (.writeLine (List.replicate 65536 0x41#8) 1#8) := test_long_text

/-- The longest text that fits. -/
theorem test_showBoth_longest : WellFormed (.showBoth (List.replicate 65535 0x41#8)) := by
  show (List.replicate 65535 0x41#8).length < 65536
  rw [List.length_replicate]
  decide

/-! ## Decoding: words written out from the spec's encodings -/

/-- R69, R71: op 000, rsv 00000, arg 00000000, then RS E D4 D5 D6 D7 (section 2.11). -/
theorem test_decode_construct :
    decode .hostreq [0b00000000#8, 0b00000000#8, 0x1A#8, 0x13#8, 0x0D#8, 0x06#8, 0x05#8, 0x0B#8, 0x20#8] =
      .instr (.construct goodPins) [0x20#8] := by decide

/-- R69: op 001. -/
theorem test_decode_clear : decode .hostreq [0b00100000#8, 0b00000000#8] = .instr .clear [] := by decide

/-- R69, R70: op 010, the line in arg, then the length and the codes, the first character first (section 2.11). -/
theorem test_decode_showLine :
    decode .hostreq [0b01000000#8, 0b00000010#8, 0x00#8, 0x05#8, 0x48#8, 0x45#8, 0x4C#8, 0x4C#8, 0x4F#8] =
      .instr (.showLine hello 2#8) [] := by decide

/-- R69, R70: op 011 (section 2.11). -/
theorem test_decode_showBoth :
    decode .hostreq [0b01100000#8, 0b00000000#8, 0x00#8, 0x02#8, 0x48#8, 0x49#8] =
      .instr (.showBoth [0x48#8, 0x49#8]) [] := by decide

/-- R79: the tags of the internal operations, with the operand places of log 2. -/
theorem test_decode_internal :
    decode .intsel [0b000#8] = .instr .toggleE [] ∧
    decode .intsel [0b001#8, 0b1010#8] = .instr (.driveNibble 0xA#4) [] ∧
    decode .intsel [0b010#8, 0b1#8, 0b10100101#8] = .instr (.send 0xA5#8 true) [] ∧
    decode .intsel [0b011#8] = .instr .initializeLcd [] ∧
    decode .intsel [0b100#8, 0x01#8, 0x00#8, 0x01#8, 0x58#8] = .instr (.writeLine [0x58#8] 1#8) [] ∧
    decode .intsel [0b101#8] = .refused .unusedTag := by decide

/-- R61: bit 8 is the mode, bits 7:0 the byte. -/
theorem test_decode_txw :
    decode .txw [0b0#8, 0b10000001#8] = .instr (.sendCmd 0x81#8) [] ∧
    decode .txw [0b1#8, 0b10000001#8] = .instr (.sendChr 0x81#8) [] ∧
    decode .txw [0b10#8, 0b10000001#8] = .refused .bitsAboveWidth := by decide

/-- R64: the eight Command bytes, and a byte that is none of them (R74). -/
theorem test_decode_cmdbyte :
    decode .cmdbyte [0b00110011#8] = .instr .init0 [] ∧ decode .cmdbyte [0b00110010#8] = .instr .init1 [] ∧
    decode .cmdbyte [0b00000110#8] = .instr .init2 [] ∧ decode .cmdbyte [0b00001100#8] = .instr .init3 [] ∧
    decode .cmdbyte [0b00101000#8] = .instr .init4 [] ∧ decode .cmdbyte [0b00000001#8] = .instr .init5 [] ∧
    decode .cmdbyte [0b10000000#8] = .instr .addrL1 [] ∧ decode .cmdbyte [0b11000000#8] = .instr .addrL2 [] ∧
    decode .cmdbyte [0b00000010#8] = .refused .notACommandByte := by decide

/-- R66: any code is a Character byte, also one that is a Command byte too. -/
theorem test_decode_chr : decode .chrbyte [0b11000000#8] = .instr (.chr 0xC0#8) [] := by decide

/-- R62: RS, D7, D6, D5, D4. -/
theorem test_decode_frame :
    decode .nf [0b11000#8] = .instr (.frame true 0b1000#4) [] ∧
    decode .nf [0b00001#8] = .instr (.frame false 0b0001#4) [] ∧
    decode .nf [0b100000#8] = .refused .bitsAboveWidth := by decide

/-- R79: the tags of the events, with the operand places of log 2. -/
theorem test_decode_events :
    decode .evsel [0b00#8, 0b1011#8] = .instr (.set .d7 true) [] ∧
    decode .evsel [0b01#8, 0b1#8] = .instr (.wait .ePulse) [] ∧
    decode .evsel [0b10#8, 0b1#8] = .instr (.cfg .e) [] ∧
    decode .evsel [0b11#8] = .refused .unusedTag ∧
    decode .evsel [0b10#8, 6#8] = .refused .noSuchOperand := by decide

/-- R72: the three response codes; code 3 is never produced. -/
theorem test_decode_responses :
    decode .resp [0b00#8] = .instr .ok [] ∧ decode .resp [0b01#8] = .instr .invalidPinID [] ∧
    decode .resp [0b10#8] = .instr .invalidLineNumber [] ∧
    decode .resp [0b11#8] = .refused .noSuchResponse := by decide

/-- Section 2.11: the four reserved headers; and a header alone is not a whole CONSTRUCT. -/
theorem test_decode_reserved :
    decode .hostreq [0x80#8, 0x00#8] = .refused .reservedOp ∧
    decode .hostreq [0x21#8, 0x00#8] = .refused .reservedRsv ∧
    decode .hostreq [0x20#8, 0x01#8] = .refused .reservedArg ∧
    decode .hostreq [0x60#8, 0x01#8] = .refused .reservedArg ∧
    decode .hostreq [0x00#8, 0x00#8, 0x1A#8] = .refused .incomplete := by decide

/-- Rows whose width no other row shares, or which come first in the table, are found without their format (log 2). -/
theorem test_decodeTableWord :
    decodeTableWord 16 0x2000 = some .clear ∧ decodeTableWord 16 0x4001 = some (.showLine [] 1#8) ∧
    decodeTableWord 3 0 = some .toggleE ∧ decodeTableWord 9 0x148 = some (.sendChr 0x48#8) ∧
    decodeTableWord 5 0x14 = some (.frame true 4#4) ∧ decodeTableWord 2 1 = some (.wait .eDelay) ∧
    decodeTableWord 2 3 = none ∧ decodeTableWord 16 0x8000 = none := by decide

/-! ## Events -/

/-- Section 2.2, first write of a line: the latch holds the level, and no other line does. -/
theorem test_set : after (exec (.set .d6 true) ready) (fun s => (s.level.d6, s.level.d5, s.pinTrace)) =
    some (.high, .low, [.set .d6 true]) := by decide

/-- R33: a wait moves no line. -/
theorem test_wait : after (exec (.wait .ePulse) ready) (fun s => (s.level, s.pinTrace)) =
    some (ready.level, [wp]) := by decide

/-- R34: after CFG the line is an output and holds no value. -/
theorem test_cfg : after (exec (.cfg .rs) ready) (fun s => (s.dir.rs, s.level.rs, s.level.d4)) =
    some (.output, .x, .high) := by decide

/-- R34: a line with no handle bound cannot be configured. -/
theorem test_cfg_unbound : stopOf (exec (.cfg .rs) State.reset) = some .lineNotBound := by decide

/-! ## Strobe generator and transmitter -/

/-- Section 2.1, last row: E starts high, and the pulse is the same. -/
theorem test_toggle :
    after (exec .toggleE { ready with level := ⟨.low, .high, .low, .low, .low, .low⟩ })
      (fun s => (s.level.e, s.pinTrace)) =
      some (.low, [wd, .set .e true, wp, .set .e false, wd]) := by decide

/-- Section 2.2, row 0xA: the lines go low in order, then D5 and D7 go high. -/
theorem test_driveNibble :
    after (exec (.driveNibble 0xA#4) ready) (fun s => (s.pinTrace, s.level.d7, s.level.d6)) =
      some ([.set .d4 false, .set .d5 false, .set .d6 false, .set .d7 false, .set .d5 true, .set .d7 true],
        .high, .low) := by decide

/-- Section 2.3, row 0xA5 in Character mode, the whole trace: a swapped nibble order would show. -/
theorem test_send_A5 :
    after (exec (.send 0xA5#8 true) ready) (fun s => s.pinTrace) =
      some [.set .rs true, .set .d4 false, .set .d5 false, .set .d6 false, .set .d7 false,
        .set .d5 true, .set .d7 true, wd, .set .e true, wp, .set .e false, wd,
        .set .d4 false, .set .d5 false, .set .d6 false, .set .d7 false,
        .set .d4 true, .set .d6 true, wd, .set .e true, wp, .set .e false, wd] := by decide

/-- Section 2.3, row 0x80: the strobes (0, 8) and (0, 0); a reversed bit-to-line map would show. -/
theorem test_send_80 :
    after (exec (.send 0x80#8 false) ready) (fun s => strobes s.pinTrace) =
      some (some [(false, 8#4), (false, 0#4)]) := by decide

/-- R61: the two modes of a transmit word. -/
theorem test_txw :
    after (exec (.sendCmd 0x5A#8) ready) (fun s => bytesOf s.pinTrace) = some (some [(false, 0x5A#8)]) ∧
    after (exec (.sendChr 0x48#8) ready) (fun s => bytesOf s.pinTrace) = some (some [(true, 0x48#8)]) := by decide

/-- R64: what each Command byte row puts on the lines. -/
theorem test_command_bytes :
    [Instr.init0, .init1, .init2, .init3, .init4, .init5, .addrL1, .addrL2].map
      (fun i => after (exec i ready) fun s => bytesOf s.pinTrace) =
      [0x33#8, 0x32#8, 0x06#8, 0x0C#8, 0x28#8, 0x01#8, 0x80#8, 0xC0#8].map
        fun v => some (some [(false, v)]) := by decide +kernel

/-- R66: a Character byte is sent unchanged. -/
theorem test_chr : after (exec (.chr 0xFF#8) ready) (fun s => bytesOf s.pinTrace) =
    some (some [(true, 0xFF#8)]) := by decide

/-- R62: one frame, one strobe. -/
theorem test_frame : after (exec (.frame true 4#4) ready) (fun s => strobes s.pinTrace) =
    some (some [(true, 4#4)]) := by decide

/-! ## Sequencer -/

/-- Section 2.4: bytes, number of events, levels after. -/
theorem test_initialize :
    after (exec .initializeLcd ready) (fun s => (bytesOf s.pinTrace, s.pinTrace.length, s.level)) =
      some (some [(false, 0x33#8), (false, 0x32#8), (false, 0x06#8), (false, 0x0C#8), (false, 0x28#8),
        (false, 0x01#8)], 129, ⟨.low, .low, .high, .low, .low, .low⟩) := by decide +kernel

/-- Section 2.6, row "X", 2: 343 events, the bytes, and the diagnostic entry as received. -/
theorem test_writeLine :
    after (exec (.writeLine [0x58#8] 2#8) ready) (fun s => (s.pinTrace.length, bytesOf s.pinTrace, s.diagTrace)) =
      some (343, some ((false, 0xC0#8) :: (true, 0x58#8) :: List.replicate 15 (true, 0x20#8)), [[0x58#8]]) := by
  decide +kernel

/-- Section 2.6, row "HELLO", 0: the error, and nothing else. -/
theorem test_writeLine_bad :
    after (exec (.writeLine hello 0#8) ready) (fun s => (s.resp, s.pinTrace, s.diagTrace)) =
      some ([.invalidLineNumber], [], []) := by decide

/-- Section 2.5: padding and truncation. -/
theorem test_norm :
    (normText hello).toList = hello ++ List.replicate 11 0x20#8 ∧
    (normText letters17).toList = letters17.take 16 := by decide

/-- Section 2.5: the second chunk of a text of 17 characters is its last one. -/
theorem test_chunks : chunk2 letters17 = [0x51#8] ∧ chunk2 hello = [] ∧ (chunk1 letters17).length = 16 := by decide

/-- Section 2.9, first row: the handles are bound and 135 events are to come. -/
theorem test_construct :
    after (exec (.construct goodPins) State.reset) (fun s => (s.handle, s.life, s.cur.map fun r => r.plan.length)) =
      some (⟨some 26, some 19, some 13, some 6, some 5, some 11⟩, .unconstructed, some 135) := by decide +kernel

/-- Section 2.9, rows 2 to 5: InvalidPinID, no handle. -/
theorem test_construct_bad :
    ∀ ids ∈ [(⟨26#8, 19#8, 13#8, 6#8, 5#8, 99#8⟩ : Lines PinId), ⟨99#8, 19#8, 13#8, 6#8, 5#8, 11#8⟩,
      ⟨26#8, 26#8, 13#8, 6#8, 5#8, 11#8⟩, ⟨99#8, 98#8, 13#8, 13#8, 5#8, 11#8⟩],
    after (exec (.construct ids) State.reset) (fun s => (s.resp, s.handle, s.pinTrace)) =
      some ([.invalidPinID], allLines none, []) := by
  decide +kernel

/-- Section 2.7: the 20 events to come are one byte. -/
theorem test_clear :
    after (exec .clear ready) (fun s => s.cur.map fun r => (r.plan.length, bytesOf (planEvents r.plan))) =
      some (some (20, some [(false, 0x01#8)])) := by decide +kernel

/-- Section 2.6, row "HELLO", 1: 351 events. -/
theorem test_showLine :
    after (exec (.showLine hello 1#8) ready) (fun s => s.cur.map fun r => r.plan.length) = some (some 351) := by
  decide +kernel

/-- Section 2.12: the refusal comes before InvalidLineNumber. -/
theorem test_showLine_unconstructed :
    stopOf (exec (.showLine [0x41#8] 3#8) State.reset) = some .needsReady := by decide

/-- Section 2.8, fourth row: 716 events; "Q" starts line 2. -/
theorem test_show :
    after (exec (.showBoth letters17) ready)
      (fun s => s.cur.map fun r => (r.plan.length, (bytesOf (planEvents r.plan)).map fun b => b[18]?)) =
      some (some (716, some (some (true, 0x51#8)))) := by decide +kernel

/-! ## Responses, the step, reset -/

/-- R113: the OK of a CONSTRUCT makes the block READY and idle. -/
theorem test_ok :
    after (exec .ok { State.reset with cur := some ⟨.construct goodPins, [], 0⟩ })
      (fun s => (s.resp, s.life, s.cur)) = some ([.ok], .ready, none) := by decide

/-- R126: an error posts its response and the block stays idle. -/
theorem test_errors :
    after (exec .invalidPinID ready) (fun s => (s.resp, s.cur)) = some ([.invalidPinID], none) ∧
    after (exec .invalidLineNumber ready) (fun s => (s.resp, s.cur)) = some ([.invalidLineNumber], none) := by decide

/-- P4: CLEAR at the port of a block in its reset lifecycle is refused. -/
theorem test_P4 : stopOf (step { State.reset with hostIn := [0x20#8, 0x00#8] }) = some .needsReady := by decide

/-- P3, step 3: the error is posted by the step that takes the request, and its bytes are gone. -/
theorem test_P3_step3 :
    after (step { ready with hostIn := [0x40#8, 0x03#8, 0x00#8, 0x01#8, 0x58#8] })
      (fun s => (s.resp, s.hostIn, s.pinTrace)) = some ([.invalidLineNumber], [], []) := by decide

/-- Section 2.6: event 21 of WRITE_LINE("HELLO", 1) is RS = 1; VALUE and MODE then hold 'H', and TL is loaded, after
the address byte (R97). -/
theorem test_step_in_line :
    after (step { ready with cur := some ⟨.showLine hello 1#8, linePlan hello 1#8 0x80#8, 20⟩ })
      (fun s => (s.pinTrace, s.value, s.mode, s.tl.toList, s.cur.map fun r => r.k)) =
      some ([.set .rs true], 0x48#8, true, hello ++ List.replicate 11 0x20#8, some 21) := by decide +kernel

/-- R97: the first event of a WRITE_LINE loads LINE, and TL is not loaded yet. -/
theorem test_step_starts_line :
    after (step { ready with cur := some ⟨.showLine hello 2#8, linePlan hello 2#8 0xC0#8, 0⟩ })
      (fun s => (s.line, decide (s.tl = ready.tl), s.value, s.mode)) =
      some (2#8, true, 0xC0#8, false) := by decide +kernel

/-- C8, R95: a request sent while the block is busy is refused, one with a bad line number too (R125). -/
theorem test_busy_refused :
    stopOf (step { ready with cur := some ⟨.clear, clearPlan, 7⟩, hostIn := [0x20#8, 0x00#8] }) = some .busy ∧
    stopOf (step { ready with
      cur := some ⟨.clear, clearPlan, 7⟩, hostIn := [0x40#8, 0x03#8, 0x00#8, 0x00#8] }) = some .busy := by decide

/-- R115: the host of an idle block sends its next request, and nothing else happens in that step. -/
theorem test_host_sends :
    after (step { ready with program := [[0x20#8, 0x00#8], [0x60#8]] })
      (fun s => (s.hostIn, s.program, s.pinTrace, s.resp)) =
      some ([0x20#8, 0x00#8], [[0x60#8]], [], []) := by decide

/-- R141: reset discards a running operation. -/
theorem test_reset :
    after (step { ready with rst := true, cur := some ⟨.clear, clearPlan, 7⟩, pinTrace := [.set .e true] })
      (fun s => (s.cur, s.pinTrace, s.life, s.level)) =
      some (none, [], .unconstructed, allLines .x) := by decide

/-- The first instruction after reset, for a host request and for another row (log 4). -/
theorem test_withFetchWord :
    after (step (State.reset.withFetchWord 16 0x2000)) (fun s => s.cur) = some (some ⟨.clear, clearPlan, 0⟩) ∧
    after (step (State.reset.withFetchWord 3 0)) (fun s => s.pinTrace) = some toggleEvents := by decide +kernel

/-- Section 2.10, the five traces. -/
theorem test_strobes :
    strobes [.set .rs false, .set .d4 false, .set .d5 false, .set .d6 false, .set .d7 false, .set .e true,
      .set .e false] = some [(false, 0#4)] ∧
    strobes [.set .rs true, .set .d4 true, .set .d5 false, .set .d6 true, .set .d7 false, .set .e true,
      .set .d4 false, .set .e false] = some [(true, 4#4)] ∧
    strobes [.set .rs false, .set .d4 false, .set .d5 false, .set .d6 false, .set .d7 false, .set .e false] =
      some [] ∧
    strobes [.set .rs false, .set .d4 false, .set .d5 false, .set .d6 false, .set .d7 false, .set .e true,
      .set .e true, .set .e false] = some [(false, 0#4)] ∧
    strobes [.cfg .e, .set .e true, .set .e false] = none := by decide

/-! ## Witnesses: states and operands that meet the hypotheses of each statement of Certificates/Slice0 -/

/-- The block as a CONSTRUCT of `goodPins` from reset leaves it, with these bytes at its port. -/
def constructed (host : List Byte) : State :=
  { State.reset with
    handle := boundLines ⟨26, 19, 13, 6, 5, 11⟩
    dir := allLines .output
    level := ⟨.low, .low, .high, .low, .low, .low⟩
    life := .ready
    pinTrace := planEvents constructPlan
    resp := [.ok]
    hostIn := host }

/-- The same block after `k` of the 20 events of a CLEAR. -/
def clearing (k : Nat) : State :=
  { constructed [] with
    level := levelsAfter ⟨.low, .low, .high, .low, .low, .low⟩ ((planEvents clearPlan).take k)
    cur := some ⟨.clear, clearPlan, k⟩
    pinTrace := planEvents constructPlan ++ (planEvents clearPlan).take k }

/-- A block at reset with these bytes at its port. -/
def fresh (host : List Byte) : State := { State.reset with hostIn := host }

/-- A CONSTRUCT that has bound its six handles and performed no event. -/
def constructing : State :=
  { State.reset with
    handle := boundLines ⟨26, 19, 13, 6, 5, 11⟩
    cur := some ⟨.construct goodPins, constructPlan, 0⟩ }

theorem constructed_whole : TraceWhole .ready (planEvents constructPlan) := by
  refine ⟨⟨initBytes, by decide +kernel, by simp [initBytes, commandBytes, initSeq]⟩,
    by decide +kernel, ⟨[], by simp, by simp⟩, by decide +kernel⟩

theorem constructed_dirs (r : Role) :
    getLine (allLines Dir.output) r = .output ↔ Event.cfg r ∈ planEvents constructPlan := by
  have h : ∀ r ∈ allRoles, Event.cfg r ∈ planEvents constructPlan := by decide +kernel
  exact ⟨fun _ => h r (by cases r <;> decide), fun _ => by simp⟩

/-- The invariant in an idle READY block, whatever the host has at the port. -/
theorem witness_inv_ready (host : List Byte) : Machine.Inv (constructed host) :=
  ⟨rfl, ⟨(by decide +kernel :
    (⟨.low, .low, .high, .low, .low, .low⟩ : Lines Level) = levelsAfter (allLines .x) (planEvents constructPlan)),
    constructed_dirs⟩, constructed_whole, fun r => by cases r <;> rfl⟩

theorem no_dirs (r : Role) : getLine (allLines Dir.unconfigured) r = .output ↔ Event.cfg r ∈ ([] : List Event) := by
  simp

/-- The invariant in an idle UNCONSTRUCTED block with a request at its port. -/
theorem witness_inv_fresh (b : Byte) (host : List Byte) : Machine.Inv (fresh (b :: host)) :=
  ⟨rfl, ⟨rfl, no_dirs⟩, ⟨⟨[], rfl, by simp⟩, rfl, rfl⟩, rfl⟩

/-- The invariant in a busy block, before any event, after the last one, and at every place between. -/
theorem witness_inv_clearing (k : Nat) (hk : k ≤ 20) : Machine.Inv (clearing k) := by
  have h := witness_inv_ready []
  refine ⟨rfl, ⟨?_, fun r => ?_⟩, rfl, ?_, fun r => by cases r <;> rfl, planEvents constructPlan,
    constructed_whole, rfl⟩
  · show levelsAfter _ _ = levelsAfter (allLines .x) (_ ++ _)
    rw [levelsAfter_append, ← show _ = levelsAfter (allLines .x) (planEvents constructPlan) from h.2.1.1]
    rfl
  · refine ⟨fun _ => List.mem_append_left _ ((constructed_dirs r).1 (by simp)), fun _ => ?_⟩
    show getLine (allLines Dir.output) r = _
    simp
  · have : clearPlan.length = 20 := by decide +kernel
    show k ≤ clearPlan.length
    omega

/-- The invariant in a busy block that is being constructed. -/
theorem witness_inv_constructing : Machine.Inv constructing :=
  ⟨rfl, ⟨rfl, no_dirs⟩, by decide +kernel, Nat.zero_le _, fun r => by cases r <;> rfl, [],
    ⟨⟨[], rfl, by simp⟩, rfl, rfl⟩, rfl⟩

/-- A step answers a next state. -/
abbrev goesOn (s : State) : Bool := (after (step s) fun _ => ()).isSome

theorem goesOn_spec {s : State} (h : goesOn s = true) : ∃ t, step s = .next t := by
  cases hs : step s with
  | next t => exact ⟨t, rfl⟩
  | fault r => cases r
  | refused r => simp [goesOn, after, hs] at h

/-- ResetInputDiscardsTheRunningOperation: in the middle of a pulse. -/
theorem witness_reset : ({ clearing 7 with rst := true } : State).rst = true := rfl

/-- SetWritesTheLatch, CfgMakesTheLineAnOutput and ToggleMakesOnePulse, for every role. -/
theorem witness_ready (r : Role) : getLine ready.dir r = .output ∧ (getLine ready.handle r).isSome ∧
    ready.dir.e = .output := by
  cases r <;> exact ⟨rfl, rfl, rfl⟩

/-- DrivenNibbleIsOnTheDataLines to WriteLineSendsSeventeenBytes: the six lines are outputs. -/
theorem witness_allOutputs : AllOutputs ready ∧ AllOutputs (constructed []) := ⟨rfl, rfl⟩

/-- WordRowsAreSends: a pair of its list. -/
theorem witness_wordRow (c : Byte) : (Instr.addrL2, 0xC0#8, false) ∈
    [(Instr.sendCmd c, c, false), (.sendChr c, c, true), (.chr c, c, true),
     (.init0, 0x33#8, false), (.init1, 0x32#8, false), (.init2, 0x06#8, false), (.init3, 0x0C#8, false),
     (.init4, 0x28#8, false), (.init5, 0x01#8, false), (.addrL1, 0x80#8, false), (.addrL2, 0xC0#8, false)] := by simp

/-- LinesFollowTraceEveryStep, PlatformIsFixed, OutputStreamsOnlyGrow: a step that moves a line. -/
theorem witness_step : LinesFollowTrace (clearing 6) ∧ (clearing 6).rst = false ∧ goesOn (clearing 6) = true :=
  ⟨(witness_inv_clearing 6 (by decide)).2.1, rfl, by decide +kernel⟩

/-- OnlyConstructWritesHandles: a step that writes them. -/
theorem witness_handles : (fresh (encode (.construct goodPins))).rst = false ∧
    (after (step (fresh (encode (.construct goodPins)))) fun t =>
      decide (t.handle = (fresh (encode (.construct goodPins))).handle)) = some false :=
  ⟨rfl, by decide +kernel⟩

/-- LifeChangesOnlyAtConstructOk: a step that writes `life`. -/
theorem witness_life :
    (after (step { constructing with cur := some ⟨.construct goodPins, constructPlan, 135⟩ }) fun t => t.life) =
      some .ready := by decide +kernel

/-- OperandRegistersReachNothingElse and DiagnosticsReachNothingElse: two states that differ there. -/
theorem witness_blind :
    (withoutOperands ready = withoutOperands { ready with value := 1#8, timer := 9 } ∧ ready.value ≠ 1#8) ∧
    (withoutDiag ready = withoutDiag { ready with diagTrace := [hello] } ∧ ready.diagTrace ≠ [hello]) :=
  ⟨⟨rfl, by decide⟩, rfl, by decide⟩

/-- DecodeOfEncode. -/
theorem witness_wellFormed : WellFormed (.construct goodPins) ∧ WellFormed (.writeLine [] 255#8) :=
  ⟨trivial, by show 0 < 65536; decide⟩

/-- ReservedRequestsAreRefused, both ways: op 4 and op 3, rsv 1 and 0, arg 1 with op 1 and with op 2; idle and
busy. -/
theorem witness_reserved : Quiet (fresh [0x80#8, 0x00#8]) ∧
    Quiet { clearing 7 with hostIn := [0x80#8, 0x00#8] } ∧
    ReservedHeader 0x80#8 0x00#8 ∧ ¬ ReservedHeader 0x60#8 0x00#8 ∧ ReservedHeader 0x21#8 0x00#8 ∧
    ReservedHeader 0x20#8 0x01#8 ∧ ¬ ReservedHeader 0x40#8 0x01#8 :=
  ⟨⟨rfl, rfl⟩, ⟨rfl, rfl⟩, by unfold ReservedHeader; decide, by unfold ReservedHeader; decide,
    by unfold ReservedHeader; decide, by unfold ReservedHeader; decide, by unfold ReservedHeader; decide⟩

/-- NibblesAndLineBase and BadLineNumberSendsNothing: the line numbers beside 1 and 2, and the largest. -/
theorem witness_badLine : ∀ l ∈ [0#8, 3#8, 255#8], l ≠ 1#8 ∧ l ≠ 2#8 := by decide

/-- TextsArePaddedCutAndSplit, each clause: the last index, a text of 16, a text of 17. -/
theorem witness_text : 15 < 16 ∧ (letters17.take 16).length ≤ 16 ∧ ¬ letters17.length ≤ 16 := by decide

/-- BadLineNumberSendsNothing, ClearIsAccepted, ShowLineIsAccepted, ShowIsAccepted, ErrorRowsPostTheirResponse. -/
theorem witness_idleReady : IdleReady ready ∧ ready.cur = none ∧ ready.life = .ready := ⟨⟨rfl, rfl⟩, rfl, rfl⟩

/-- ConstructBindsAndStarts: six identifiers that resolve to six different pins; 0 and 40 are the boundary. -/
theorem witness_construct : IdleUnconstructed State.reset ∧
    (∀ r, State.reset.plat.resolve (getLine (⟨0#8, 40#8, 13#8, 6#8, 5#8, 11#8⟩ : Lines PinId) r) =
      some (getLine ⟨0, 40, 13, 6, 5, 11⟩ r)) ∧
    ∀ r q, getLine (⟨0, 40, 13, 6, 5, 11⟩ : Lines Handle) r = getLine ⟨0, 40, 13, 6, 5, 11⟩ q → r = q :=
  ⟨⟨rfl, rfl⟩, fun r => by cases r <;> decide, fun r q => by cases r <;> cases q <;> decide⟩

/-- BadPinSendsNothing, each clause: 41 is the first identifier that does not resolve; two equal pins. -/
theorem witness_badPin :
    State.reset.plat.resolve (getLine (⟨26#8, 19#8, 13#8, 6#8, 5#8, 41#8⟩ : Lines PinId) .d7) = none ∧
    Role.rs ≠ .e ∧ State.reset.plat.resolve (getLine (⟨26#8, 26#8, 13#8, 6#8, 5#8, 11#8⟩ : Lines PinId) .rs) =
      State.reset.plat.resolve (getLine (⟨26#8, 26#8, 13#8, 6#8, 5#8, 11#8⟩ : Lines PinId) .e) := by decide

/-- MisplacedRequestsAreRefused, each clause; the last with a request at the port of a busy block. -/
theorem witness_misplaced : IsHostOp .clear ∧ (clearing 0).cur.isSome ∧ IdleUnconstructed State.reset ∧
    (∀ ids, Instr.clear ≠ .construct ids) ∧ IdleReady ready ∧ IsHostOp (.construct goodPins) ∧
    Quiet { clearing 0 with hostIn := [0x20#8, 0x00#8] } ∧
    decode .hostreq [0x20#8, 0x00#8] = .instr .clear [] :=
  ⟨rfl, rfl, ⟨rfl, rfl⟩, by simp, ⟨rfl, rfl⟩, rfl, ⟨rfl, rfl⟩, by decide⟩

/-- ErrorsComeBeforeEverySideEffect: a request that posts a response at once. -/
theorem witness_error : IsHostOp (.showLine hello 3#8) ∧
    (after (exec (.showLine hello 3#8) ready) fun t => decide (t.resp = ready.resp)) = some false :=
  ⟨rfl, by decide⟩

/-- OkEndsTheOperation and AcceptedOperationRunsToItsEnd at the end of a list, and RowsStopWhereTheirRequirementFails
before it; an empty list and a whole one. -/
theorem witness_ok : (clearing 20).cur = some ⟨.clear, clearPlan, 20⟩ ∧ clearPlan.length = 20 ∧
    (clearing 19).cur = some ⟨.clear, clearPlan, 19⟩ ∧ (⟨.construct goodPins, [], 0⟩ : Running).k = ([] : List Micro).length :=
  ⟨rfl, by decide +kernel, rfl, rfl⟩

/-- RowsStopWhereTheirRequirementFails: a line that is no output, and one that is not bound. -/
theorem witness_rowsStop : getLine State.reset.dir .e ≠ .output ∧ getLine State.reset.handle .d7 = none ∧
    State.reset.cur = none ∧ (clearing 0).cur.isSome := by decide +kernel

/-- No whole request at the port: nothing, half a header, a CONSTRUCT with one identifier missing. -/
theorem witness_noRequest (s : State) : NoRequest { s with hostIn := [] } ∧ NoRequest { s with hostIn := [0x20#8] } ∧
    NoRequest { s with hostIn := [0x00#8, 0x00#8, 0x1A#8, 0x13#8, 0x0D#8, 0x06#8, 0x05#8] } := ⟨rfl, rfl, rfl⟩

/-- StepRunsTheDecodedRequest: a whole request, of an idle block and of a busy one. -/
theorem witness_port : Quiet (constructed [0x20#8, 0x00#8]) ∧ Quiet { clearing 7 with hostIn := [0x20#8, 0x00#8] } ∧
    decode .hostreq [0x20#8, 0x00#8] = .instr .clear [] :=
  ⟨⟨rfl, rfl⟩, ⟨rfl, rfl⟩, by decide⟩

/-- StepWaitsOrRunsAPresentedRow, each clause: half a request with a program left, nothing at all, a request to be
sent, a row. -/
theorem witness_wait : Quiet { constructed [0x20#8] with program := [[0x20#8, 0x00#8]] } ∧
    (constructed [0x20#8]).cur = none ∧ NoRequest (constructed [0x20#8]) ∧ (constructed [0x20#8]).hostIn ≠ [] ∧
    NoRequest (constructed []) ∧ (constructed []).program = [] ∧ (constructed []).hostIn = [] ∧
    (State.reset.withFetchWord 3 0).rst = false ∧ (State.reset.withFetchWord 3 0).unitCall = some .toggleE :=
  ⟨⟨rfl, rfl⟩, rfl, rfl, by decide, rfl, rfl, rfl, by decide, by decide⟩

/-- StepPerformsTheEventAtK, SteppingEqualsBigStep and BusyStepAddsExactlyOneEvent: the first and the last place of
a list, and its end. -/
theorem witness_busy : Quiet (clearing 0) ∧ NoRequest (clearing 0) ∧ (clearing 0).cur = some ⟨.clear, clearPlan, 0⟩ ∧
    (clearPlan[0]?.map fun m => m.event) = some (.set .rs false) ∧ goesOn (clearing 0) = true ∧
    (clearPlan[19]?.map fun m => m.event) = some wd ∧ goesOn (clearing 19) = true ∧ clearPlan[20]? = none :=
  ⟨⟨rfl, rfl⟩, rfl, rfl, by decide +kernel, by decide +kernel, by decide +kernel, by decide +kernel,
    by decide +kernel⟩

/-- OperandRegistersAreLoaded, each clause: the one SEND of a CLEAR, and the second line of a SHOW; the first event
and the last one of each, and the first after the address byte. -/
theorem witness_loaded : Quiet (clearing 0) ∧ NoRequest (clearing 0) ∧ AllOutputs (clearing 0) ∧
    (clearing 0).cur = some ⟨.clear, [] ++ sendPlan 0x01#8 false ++ [], 0⟩ ∧
    1 ≤ (sendPlan 0x01#8 false).length ∧
    showPlan letters17 = linePlan (letters17.take 16) 1#8 0x80#8 ++ linePlan [0x51#8] 2#8 0xC0#8 ++ [] ∧
    (sendPlan 0xC0#8 modeCmd).length + 1 ≤ (linePlan [0x51#8] 2#8 0xC0#8).length :=
  ⟨⟨rfl, rfl⟩, rfl, rfl, by decide +kernel, by decide +kernel, by decide +kernel, by decide +kernel⟩

/-- InvEveryStep: idle before and after construction, and busy. -/
theorem witness_invStep : Machine.Inv (fresh (encode (.construct goodPins))) ∧
    goesOn (fresh (encode (.construct goodPins))) = true ∧ Machine.Inv (constructed []) ∧
    goesOn (constructed []) = true ∧ Machine.Inv (clearing 20) ∧ goesOn (clearing 20) = true :=
  ⟨witness_inv_fresh _ _, by decide +kernel, witness_inv_ready _, by decide +kernel,
    witness_inv_clearing 20 (by decide), by decide +kernel⟩

/-- InvGivesTheReachableStates and TransmittedBytesOfAReadyBlock, each clause. -/
theorem witness_reachable : Machine.Inv (constructed []) ∧ (constructed []).life = .ready ∧
    (constructed []).cur = none := ⟨witness_inv_ready _, rfl, rfl⟩

/-- The invariant says nothing of the port: it holds in a busy block whatever the host lays there. -/
theorem witness_inv_busyPort (k : Nat) (hk : k ≤ 20) (host : List Byte) :
    Machine.Inv { clearing k with hostIn := host } := witness_inv_clearing k hk

/-- OnlyRefusedRequestsStop: the four refusals. -/
theorem witness_stops :
    stopOf (step { clearing 7 with hostIn := [0x20#8, 0x00#8] }) = some .busy ∧
    Machine.Inv (fresh [0x20#8, 0x00#8]) ∧ stopOf (step (fresh [0x20#8, 0x00#8])) = some .needsReady ∧
    stopOf (step (fresh [0x80#8, 0x00#8])) = some (.reservedRequest .reservedOp) ∧
    stopOf (step (constructed (encode (.construct goodPins)))) = some .alreadyConstructed :=
  ⟨by decide +kernel, witness_inv_fresh _ _, by decide, by decide, by decide +kernel⟩

/-- PulseIsOneWait, each clause: the trace ends with the rise, with the wait, and goes on. -/
theorem witness_pulse : Machine.Inv (clearing 7) ∧
    (clearing 7).pinTrace = (clearing 6).pinTrace ++ Event.set .e true :: [] ∧
    (clearing 8).pinTrace = (clearing 6).pinTrace ++ Event.set .e true :: [wp] ∧
    (clearing 9).pinTrace = (clearing 6).pinTrace ++ Event.set .e true :: [wp, .set .e false] :=
  ⟨witness_inv_clearing 7 (by decide), by decide +kernel, by decide +kernel, by decide +kernel⟩

/-- LowPhaseFollowsTheFall, each clause. -/
theorem witness_fall : Machine.Inv (clearing 9) ∧
    (clearing 9).pinTrace = (clearing 8).pinTrace ++ Event.set .e false :: [] ∧
    (clearing 10).pinTrace = (clearing 8).pinTrace ++ Event.set .e false :: [wd] ∧
    (clearing 17).pinTrace = (clearing 8).pinTrace ++ Event.set .e false ::
      ([wd, .set .d4 false, .set .d5 false, .set .d6 false, .set .d7 false, .set .d4 true, wd] ++
        Event.set .e true :: []) :=
  ⟨witness_inv_clearing 9 (by decide), by decide +kernel, by decide +kernel, by decide +kernel⟩

/-- PulseFollowsTheDrivenNibble, each clause; and NoLineMovesDuringAPulse. -/
theorem witness_nibble : Machine.Inv (clearing 5) ∧ Role.d7 ≠ .rs ∧ Role.d7 ≠ .e ∧
    (clearing 5).pinTrace = (clearing 4).pinTrace ++ Event.set .d7 false :: [] ∧
    (clearing 5).pinTrace = (clearing 3).pinTrace ++ Event.set .d6 false :: [.set .d7 false] ∧
    (clearing 6).pinTrace = (clearing 4).pinTrace ++ Event.set .d7 false :: [wd] ∧
    (clearing 7).pinTrace = (clearing 4).pinTrace ++ Event.set .d7 false :: [wd, .set .e true] :=
  ⟨witness_inv_clearing 5 (by decide), by decide, by decide, by decide +kernel, by decide +kernel,
    by decide +kernel, by decide +kernel⟩

/-- RsIsStableThroughBothPulses, each clause: the SEND of 0x33 up to the RS of the next, in which RS is not written
again, and a SEND up to its first rise. -/
theorem witness_rs : Machine.Inv (clearing 1) ∧
    planEvents constructPlan = allRoles.map Event.cfg ++ Event.set .rs false :: (sendEvents 0x33#8 false).tail ++
      Event.set .rs false :: (planEvents constructPlan).drop 30 ∧
    (∀ x : Bool, Event.set .rs x ∉ (sendEvents 0x33#8 false).tail) ∧
    (clearing 7).pinTrace = (clearing 0).pinTrace ++ Event.set .rs false ::
      [.set .d4 false, .set .d5 false, .set .d6 false, .set .d7 false, wd] ++ Event.set .e true :: [] :=
  ⟨witness_inv_clearing 1 (by decide), by decide +kernel, by decide +kernel, by decide +kernel⟩

/-- AcceptedOperationRunsToItsEnd: at the start and in the middle of an operation, and in a construction. -/
theorem witness_accepted : Machine.Inv (clearing 0) ∧ (clearing 0).rst = false ∧ NoRequest (clearing 0) ∧
    (clearing 0).cur = some ⟨.clear, clearPlan, 0⟩ ∧ Machine.Inv constructing ∧ NoRequest constructing ∧
    constructing.cur = some ⟨.construct goodPins, constructPlan, 0⟩ :=
  ⟨witness_inv_clearing 0 (by decide), rfl, rfl, rfl, witness_inv_constructing, rfl, rfl⟩

/-- ConstructDelivers: with nothing after the request. -/
theorem witness_constructDelivers : Machine.Inv (fresh (encode (.construct goodPins))) ∧
    (fresh (encode (.construct goodPins))).rst = false ∧ IdleUnconstructed (fresh (encode (.construct goodPins))) ∧
    resolveAll Platform.vectors goodPins = some ⟨26, 19, 13, 6, 5, 11⟩ ∧
    decode .hostreq [] = .refused .incomplete :=
  ⟨witness_inv_fresh _ _, rfl, ⟨rfl, rfl⟩, by decide, rfl⟩

/-- ClearDelivers, ShowLineDelivers, ShowDelivers: a request and half a header after it. -/
theorem witness_delivers : Machine.Inv (constructed (encode .clear ++ [0x20#8])) ∧
    decode .hostreq [0x20#8] = .refused .incomplete ∧
    IdleReady (constructed (encode .clear)) ∧ bytesOf (constructed []).pinTrace = some initBytes ∧
    TextFits hello ∧ lineBase 1#8 = some 0x80#8 ∧ lineBase 2#8 = some 0xC0#8 ∧
    Machine.Inv (constructed (encode (.showLine hello 2#8))) ∧ Machine.Inv (constructed (encode (.showBoth letters17))) :=
  ⟨witness_inv_ready _, rfl, ⟨rfl, rfl⟩, by decide +kernel, by decide, rfl, rfl, witness_inv_ready _, witness_inv_ready _⟩

end Sys2Proof.Tests
end

/-! ## The control state and the handles (10_state.md) -/

section

namespace Sys2Proof.Machine

/-- `t` has the control state of `s`: the handles, the lifecycle and the running operation (R12, R20, R21). -/
structure SameControl (s t : State) : Prop where
  handle : t.handle = s.handle
  life : t.life = s.life
  cur : t.cur = s.cur

theorem Ran.sameControl {s t : State} {es : List Event} (h : Ran s t es) : SameControl s t :=
  ⟨h.handle, h.life, h.cur⟩

theorem raise_sameControl {e : Response} {s t : State} (h : raise e s = .next t) : SameControl s t := by
  obtain ⟨-, rfl⟩ := raise_next h
  exact ⟨rfl, rfl, rfl⟩

theorem sendWhole_sameControl {v : Byte} {m : Bool} {s t : State} (h : sendWhole v m s = .next t) :
    SameControl s t := by
  obtain ⟨u, hu, ht⟩ := andThen_eq_next.1 h
  obtain ⟨hh, hl, hc⟩ := (runPlan_next hu).sameControl
  cases ht
  exact ⟨hh, hl, hc⟩

theorem execWriteLine_sameControl {text : List Byte} {line : Byte} {s t : State}
    (h : execWriteLine text line s = .next t) : SameControl s t := by
  unfold execWriteLine at h
  split at h
  · exact raise_sameControl h
  · obtain ⟨u, hu, ht⟩ := andThen_eq_next.1 h
    obtain ⟨hh, hl, hc⟩ := (runPlan_next hu).sameControl
    cases ht
    exact ⟨hh, hl, hc⟩

/-- Only the four host requests and the end of an operation move the control state: every other row keeps it. -/
theorem exec_sameControl {i : Instr} {s t : State} (hi : ¬ IsHostOp i) (hok : i ≠ .ok)
    (h : exec i s = .next t) : SameControl s t := by
  cases i with
  | construct _ | clear | showLine _ _ | showBoth _ => exact absurd rfl hi
  | ok => exact absurd rfl hok
  | toggleE | driveNibble _ | initializeLcd | frame _ _ => exact (runPlan_next h).sameControl
  | send _ _ | sendCmd _ | sendChr _ | chr _ | init0 | init1 | init2 | init3 | init4 | init5
  | addrL1 | addrL2 => exact sendWhole_sameControl h
  | writeLine _ _ => exact execWriteLine_sameControl h
  | set r b => exact (perform_next (e := .set r b) h).sameControl
  | wait d => exact (perform_next (e := .wait d) h).sameControl
  | cfg r => exact (perform_next (e := .cfg r) h).sameControl
  | invalidPinID | invalidLineNumber => exact raise_sameControl h

/-- A row that changes the handles is a CONSTRUCT, accepted in an UNCONSTRUCTED block, whose identifiers resolve
(R12, R101). -/
theorem exec_changes_handle {i : Instr} {s t : State} (h : exec i s = .next t) (hne : t.handle ≠ s.handle) :
    ∃ ids b, i = .construct ids ∧ s.life = .unconstructed ∧ resolveAll s.plat ids = some b ∧
      t = { s with handle := boundLines b }.start (.construct ids) constructPlan := by
  by_cases hi : IsHostOp i
  · cases i with
    | construct ids =>
      obtain ⟨-, hl, ⟨-, rfl⟩ | ⟨b, hb, rfl⟩⟩ := execConstruct_next h
      · exact absurd rfl hne
      · exact ⟨ids, b, rfl, hl, hb, rfl⟩
    | clear =>
      obtain ⟨-, -, rfl⟩ := execClear_next h
      exact absurd rfl hne
    | showLine text line =>
      obtain ⟨-, -, ⟨-, rfl⟩ | ⟨p, -, rfl⟩⟩ := execShowLine_next h <;> exact absurd rfl hne
    | showBoth text =>
      obtain ⟨-, -, rfl⟩ := execShowBoth_next h
      exact absurd rfl hne
    | _ => cases hi
  · by_cases hok : i = .ok
    · subst hok
      obtain ⟨r, -, -, rfl⟩ := finish_next h
      exact absurd rfl hne
    · exact absurd (exec_sameControl hi hok h).handle hne

/-- A step that changes the handles, and is no reset, runs a row that changes them: it waits for nothing, performs
no event of a running operation and ends none. -/
theorem step_changes_handle {s t : State} (hr : s.rst = false) (h : step s = .next t)
    (hne : t.handle ≠ s.handle) :
    ∃ i u, exec i u = .next t ∧ u.handle = s.handle ∧ u.life = s.life ∧ u.plat = s.plat := by
  obtain ⟨hr', -⟩ | ⟨-, ⟨i, -, hx⟩ | ⟨-, ⟨i, rest, -, hx⟩ | ⟨-, hbusy | hend | hidle⟩⟩⟩ := step_next h
  · exact absurd (hr.symm.trans hr') Bool.false_ne_true
  · exact ⟨i, _, hx, rfl, rfl, rfl⟩
  · exact ⟨i, _, hx, rfl, rfl, rfl⟩
  · obtain ⟨r, m, -, -, hp⟩ := hbusy
    exact absurd ((perform_next hp).handle.trans (State.advance_handle s r m)) hne
  · obtain ⟨r, -, -, hf⟩ := hend
    obtain ⟨r', -, -, rfl⟩ := finish_next hf
    exact absurd rfl hne
  · obtain ⟨-, rfl | ⟨q, later, -, -, rfl⟩⟩ := hidle <;> exact absurd rfl hne

/-- Settles O7: of everything a step can be, only an accepted CONSTRUCT that resolves changes the handles. -/
theorem onlyConstructWritesHandles : Obligations.OnlyConstructWritesHandles := by
  intro s t hr hs hne
  obtain ⟨i, u, hx, hh, hl, hp⟩ := step_changes_handle hr hs hne
  obtain ⟨ids, b, -, hu, hb, rfl⟩ := exec_changes_handle hx (hh ▸ hne)
  exact ⟨hl ▸ hu, ids, b, hp ▸ hb, rfl, rfl⟩

/-- SET on an output does its effect and is appended to the trace (R32). -/
theorem perform_set_output {r : Role} {s : State} (b : Bool) (h : getLine s.dir r = .output) :
    perform (.set r b) s = .next ((s.setLevel r b).emit (.set r b)) :=
  if_pos h

/-- Settles O3: the row SET performs its event, whose requirement the line meets. -/
theorem setWritesTheLatch : Obligations.SetWritesTheLatch := by
  intro r b s h
  exact perform_set_output b h

end Sys2Proof.Machine
end

/-! ## The data lines under DRIVE_NIBBLE (20_memory.md) -/

section

namespace Sys2Proof.Machine

/-- A list of SETs on outputs runs to its end: it moves the latches, is appended to the trace, and changes nothing
else (R32, R113). -/
theorem runPlan_sets {es : List Event} {s : State}
    (h : ∀ e ∈ es, ∃ r b, e = .set r b ∧ getLine s.dir r = .output) :
    runPlan (plain es) s =
      .next { s with level := levelsAfter s.level es, pinTrace := s.pinTrace ++ es } := by
  induction es generalizing s with
  | nil => simp [plain]
  | cons e rest ih =>
    obtain ⟨⟨r, b, rfl, hr⟩, hrest⟩ := List.forall_mem_cons.1 h
    have hrun : runMicro ⟨[], .set r b⟩ s = .next ((s.setLevel r b).emit (.set r b)) := perform_set_output b hr
    have htail := ih (s := (s.setLevel r b).emit (.set r b)) hrest
    calc runPlan (plain (.set r b :: rest)) s
        = runPlan (plain rest) ((s.setLevel r b).emit (.set r b)) := congrArg (andThen · _) hrun
      _ = .next { s with
            level := levelsAfter s.level (.set r b :: rest)
            pinTrace := s.pinTrace ++ [.set r b] ++ rest } := htail
      _ = _ := by rw [List.append_assoc, List.singleton_append]

/-- A conditional raise performs the SET of its line to high, or nothing (R85). -/
theorem eq_set_of_mem_raiseIf {b : Bool} {r : Role} {e : Event} (h : e ∈ raiseIf b r) : e = .set r true := by
  cases b with
  | false => cases h
  | true => exact List.mem_singleton.1 h

/-- DRIVE_NIBBLE writes the four data lines and performs no other event (R85). -/
theorem nibbleEvents_sets_data {n : Nibble} {e : Event} (h : e ∈ nibbleEvents n) :
    ∃ r b, e = .set r b ∧ r ∈ [Role.d4, .d5, .d6, .d7] := by
  simp only [nibbleEvents, List.mem_append, List.mem_cons, List.not_mem_nil, or_false] at h
  obtain ((((rfl | rfl | rfl | rfl) | h4) | h5) | h6) | h7 := h
  · exact ⟨.d4, false, rfl, by decide⟩
  · exact ⟨.d5, false, rfl, by decide⟩
  · exact ⟨.d6, false, rfl, by decide⟩
  · exact ⟨.d7, false, rfl, by decide⟩
  · exact ⟨.d4, true, eq_set_of_mem_raiseIf h4, by decide⟩
  · exact ⟨.d5, true, eq_set_of_mem_raiseIf h5, by decide⟩
  · exact ⟨.d6, true, eq_set_of_mem_raiseIf h6, by decide⟩
  · exact ⟨.d7, true, eq_set_of_mem_raiseIf h7, by decide⟩

/-- DRIVE_NIBBLE on four data lines that are outputs leaves bit `i` of the nibble on line D(4+i) and changes nothing
else but the trace (R44, R85). -/
theorem exec_driveNibble {s : State} (n : Nibble)
    (h : ∀ r ∈ [Role.d4, .d5, .d6, .d7], getLine s.dir r = .output) :
    exec (.driveNibble n) s = .next { s with
      level := { s.level with
        d4 := levelOfBool (n.getLsbD 0)
        d5 := levelOfBool (n.getLsbD 1)
        d6 := levelOfBool (n.getLsbD 2)
        d7 := levelOfBool (n.getLsbD 3) }
      pinTrace := s.pinTrace ++ nibbleEvents n } := by
  have hsets : ∀ e ∈ nibbleEvents n, ∃ r b, e = .set r b ∧ getLine s.dir r = .output := by
    intro e he
    obtain ⟨r, b, rfl, hr⟩ := nibbleEvents_sets_data he
    exact ⟨r, b, rfl, h r hr⟩
  rw [← levelsAfter_nibble]
  exact runPlan_sets hsets

/-- Bit `i` of the high nibble is bit `4 + i` of the byte (R63). -/
theorem getLsbD_highNibble (v : Byte) {i : Nat} (hi : i < 4) :
    (highNibble v).getLsbD i = v.getLsbD (4 + i) := by
  simp [highNibble, hi]

/-- Bit `i` of the low nibble is bit `i` of the byte (R63). -/
theorem getLsbD_lowNibble (v : Byte) {i : Nat} (hi : i < 4) :
    (lowNibble v).getLsbD i = v.getLsbD i := by
  simp [lowNibble, hi]

/-- Settles O19: either nibble is driven bit by bit, and its bits are those of the byte. -/
theorem drivenNibbleIsOnTheDataLines : Obligations.DrivenNibbleIsOnTheDataLines := by
  intro v s hs
  have hout : ∀ r ∈ [Role.d4, .d5, .d6, .d7], getLine s.dir r = .output := by
    intro r _
    rw [show s.dir = _ from hs, getLine_allLines]
  constructor
  · rw [exec_driveNibble _ hout, getLsbD_highNibble v (by decide), getLsbD_highNibble v (by decide),
      getLsbD_highNibble v (by decide), getLsbD_highNibble v (by decide)]
    rfl
  · rw [exec_driveNibble _ hout, getLsbD_lowNibble v (by decide), getLsbD_lowNibble v (by decide),
      getLsbD_lowNibble v (by decide), getLsbD_lowNibble v (by decide)]
    rfl

end Sys2Proof.Machine
end

/-! ## The slices of a byte and the line base (30_encoding.md) -/

section

namespace Sys2Proof.Machine

/-- The high nibble counts the sixteens of the byte (R63). -/
theorem toNat_highNibble (v : Byte) : (highNibble v).toNat = v.toNat / 16 := by
  rw [highNibble, BitVec.extractLsb'_toNat, Nat.shiftRight_eq_div_pow]
  exact Nat.mod_eq_of_lt (Nat.div_lt_of_lt_mul v.isLt)

/-- The low nibble is what remains of the byte (R63). -/
theorem toNat_lowNibble (v : Byte) : (lowNibble v).toNat = v.toNat % 16 := by
  rw [lowNibble, BitVec.extractLsb'_toNat, Nat.shiftRight_zero]

/-- Two nibbles side by side are `hi × 16 + lo` (R63). -/
theorem toNat_joinNibbles (hi lo : Nibble) : (joinNibbles hi lo).toNat = hi.toNat * 16 + lo.toNat := by
  rw [joinNibbles, BitVec.toNat_append, ← Nat.shiftLeft_add_eq_or_of_lt lo.isLt, Nat.shiftLeft_eq]

/-- A byte is sixteen times its high nibble and its low nibble (R63). -/
theorem toNat_eq_nibbles (v : Byte) : v.toNat = (highNibble v).toNat * 16 + (lowNibble v).toNat := by
  rw [toNat_highNibble, toNat_lowNibble, Nat.div_add_mod']

/-- The two slices of a byte joined give the byte back (R63). -/
theorem joinNibbles_highNibble_lowNibble (v : Byte) : joinNibbles (highNibble v) (lowNibble v) = v :=
  BitVec.eq_of_toNat_eq ((toNat_joinNibbles _ _).trans (toNat_eq_nibbles v).symm)

/-- A line other than 1 and 2 has no base address (R65). -/
theorem lineBase_eq_none {line : Byte} (h1 : line ≠ 1#8) (h2 : line ≠ 2#8) : lineBase line = none := by
  rw [lineBase, if_neg h1, if_neg h2]

/-- Settles O16: the slices bit by bit, the byte from them by its value, and the three cases of the line base. -/
theorem nibblesAndLineBase : Obligations.NibblesAndLineBase := by
  refine ⟨fun v => ⟨fun i hi => ?bits, ?joined, ?value⟩, rfl, rfl, fun line h1 h2 => ?otherLine⟩
  case bits => exact ⟨getLsbD_highNibble v hi, getLsbD_lowNibble v hi⟩
  case joined => exact joinNibbles_highNibble_lowNibble v
  case value => exact toNat_eq_nibbles v
  case otherLine => exact lineBase_eq_none h1 h2

end Sys2Proof.Machine
end

/-! ## The enable pulse (40_strobe.md) -/

section

namespace Sys2Proof.Machine

/-- A SET on an output or a WAIT moves its latch, is appended to the trace, and changes nothing else but TIMER
(R32, R33). -/
theorem perform_set_or_wait {e : Event} {s : State} (hcfg : ∀ r, e ≠ .cfg r)
    (hset : ∀ r b, e = .set r b → getLine s.dir r = .output) :
    ∃ n, perform e s =
      .next { s with level := levelsStep s.level e, timer := n, pinTrace := s.pinTrace ++ [e] } := by
  cases e with
  | set r b => exact ⟨s.timer, perform_set_output b (hset r b rfl)⟩
  | wait d => exact ⟨(s.runTimer d).timer, rfl⟩
  | cfg r => exact absurd rfl (hcfg r)

/-- A list of SETs on outputs and WAITs runs to its end: it moves the latches, is appended to the trace, and changes
nothing else but TIMER (R32, R33, R113). -/
theorem runPlan_sets_and_waits {es : List Event} {s : State} (hcfg : ∀ r, Event.cfg r ∉ es)
    (hset : ∀ r b, Event.set r b ∈ es → getLine s.dir r = .output) :
    ∃ n, runPlan (plain es) s =
      .next { s with level := levelsAfter s.level es, timer := n, pinTrace := s.pinTrace ++ es } := by
  induction es generalizing s with
  | nil => exact ⟨s.timer, by simp [plain]⟩
  | cons e rest ih =>
    have hcfg' : ∀ r, e ≠ .cfg r := fun r he => hcfg r (he ▸ List.mem_cons_self)
    have hset' : ∀ r b, e = .set r b → getLine s.dir r = .output :=
      fun r b he => hset r b (he ▸ List.mem_cons_self)
    obtain ⟨n, hn⟩ := perform_set_or_wait hcfg' hset'
    obtain ⟨n', hn'⟩ := ih
      (s := { s with level := levelsStep s.level e, timer := n, pinTrace := s.pinTrace ++ [e] })
      (fun r hr => hcfg r (List.mem_cons_of_mem e hr))
      (fun r b hr => hset r b (List.mem_cons_of_mem e hr))
    refine ⟨n', (congrArg (andThen · (runPlan (plain rest))) hn).trans (hn'.trans ?_)⟩
    rw [levelsAfter_cons, List.append_assoc, List.singleton_append]

/-- TOGGLE_E binds no line (R80). -/
theorem cfg_not_mem_toggleEvents (r : Role) : Event.cfg r ∉ toggleEvents := by
  simp [toggleEvents]

/-- TOGGLE_E writes no line but E (R80). -/
theorem eq_e_of_set_mem_toggleEvents {r : Role} {b : Bool} (h : Event.set r b ∈ toggleEvents) : r = .e := by
  simp only [toggleEvents, List.mem_cons, List.not_mem_nil, or_false, reduceCtorEq, false_or, Event.set.injEq] at h
  obtain ⟨hr, -⟩ | ⟨hr, -⟩ := h <;> exact hr

/-- Settles O18: the pulse writes E alone, an output, so its list runs whole and leaves E where it ends. -/
theorem toggleMakesOnePulse : Obligations.ToggleMakesOnePulse := by
  intro s he
  obtain ⟨n, hn⟩ := runPlan_sets_and_waits (s := s) cfg_not_mem_toggleEvents fun r b h => by
    rw [eq_e_of_set_mem_toggleEvents h]
    exact he
  exact ⟨n, levelsAfter_toggle s.level ▸ hn⟩

end Sys2Proof.Machine
end

/-! ## SEND (41_transmitter.md) -/

section

namespace Sys2Proof.Machine

/-- Transfers that come with the first event of a list are made before the list runs. -/
theorem runPlan_withPre_plain (ts : List Transfer) {es : List Event} (h : es ≠ []) (s : State) :
    runPlan (withPre ts (plain es)) s = runPlan (plain es) (s.transfers ts) := by
  cases es with
  | nil => exact absurd rfl h
  | cons e rest => simp [plain, withPre, runMicro, State.transfers]

/-- DRIVE_NIBBLE binds no line (R85). -/
theorem cfg_not_mem_nibbleEvents (n : Nibble) (r : Role) : Event.cfg r ∉ nibbleEvents n := by
  intro h
  obtain ⟨r', b, he, -⟩ := nibbleEvents_sets_data h
  cases he

/-- SEND binds no line (R86). -/
theorem cfg_not_mem_sendEvents (v : Byte) (m : Bool) (r : Role) : Event.cfg r ∉ sendEvents v m := by
  simp [sendEvents, cfg_not_mem_nibbleEvents, cfg_not_mem_toggleEvents]

/-- SEND leaves RS at the mode, E low and the low nibble on the data lines, whatever the levels before it (R86). -/
theorem levelsAfter_sendEvents (l : Lines Level) (v : Byte) (m : Bool) :
    levelsAfter l (sendEvents v m) =
      ⟨levelOfBool m, .low, levelOfBool (v.getLsbD 0), levelOfBool (v.getLsbD 1),
        levelOfBool (v.getLsbD 2), levelOfBool (v.getLsbD 3)⟩ := by
  simp (disch := decide) only [sendEvents, levelsAfter_append, levelsAfter_cons, levelsAfter_nil, levelsAfter_nibble,
    levelsAfter_toggle, getLsbD_lowNibble, levelsStep, setLine]

/-- A whole SEND on outputs loads VALUE and MODE, performs its list, and drops the two registers; it changes nothing
else but TIMER (R22, R86, V4). -/
theorem sendWhole_outputs {s : State} (v : Byte) (m : Bool) (h : AllOutputs s) :
    ∃ n, sendWhole v m s = .next { s with
      value := v
      mode := m
      level := levelsAfter s.level (sendEvents v m)
      timer := n
      pinTrace := s.pinTrace ++ sendEvents v m : State }.dropSend := by
  have hout : ∀ r b, Event.set r b ∈ sendEvents v m →
      getLine (s.transfers [.loadSend v m]).dir r = .output := by
    intro r _ _
    rw [State.transfers_dir, show s.dir = _ from h, getLine_allLines]
  obtain ⟨n, hn⟩ := runPlan_sets_and_waits (cfg_not_mem_sendEvents v m) hout
  exact ⟨n, congrArg (andThen · fun t => .next t.dropSend)
    ((runPlan_withPre_plain _ (by simp [sendEvents]) s).trans hn)⟩

/-- Settles O21: the SEND runs whole, and its list leads to the levels of the mode and of the low nibble. -/
theorem sendTransmitsHighThenLow : Obligations.SendTransmitsHighThenLow := by
  intro v m s h
  obtain ⟨n, hn⟩ := sendWhole_outputs v m h
  rw [levelsAfter_sendEvents] at hn
  exact ⟨_, hn, rfl⟩

end Sys2Proof.Machine
end

/-! ## The responses of a host request (60_exceptions.md) -/

section

namespace Sys2Proof.Machine

/-- A host request that runs either posts one error, and that is all it does, or starts and posts nothing
(R95, R124). -/
theorem exec_hostOp_posts {i : Instr} {s t : State} (hi : IsHostOp i) (h : exec i s = .next t) :
    (∃ e, e ≠ .ok ∧ t = s.post e) ∨ t.resp = s.resp := by
  cases i with
  | construct ids =>
    obtain ⟨-, -, ⟨-, rfl⟩ | ⟨b, -, rfl⟩⟩ := execConstruct_next h
    · exact .inl ⟨.invalidPinID, by decide, rfl⟩
    · exact .inr (State.start_resp _ _ _)
  | clear =>
    obtain ⟨-, -, rfl⟩ := execClear_next h
    exact .inr (State.start_resp _ _ _)
  | showLine text line =>
    obtain ⟨-, -, ⟨-, rfl⟩ | ⟨p, -, rfl⟩⟩ := execShowLine_next h
    · exact .inl ⟨.invalidLineNumber, by decide, rfl⟩
    · exact .inr (State.start_resp _ _ _)
  | showBoth text =>
    obtain ⟨-, -, rfl⟩ := execShowBoth_next h
    exact .inr (State.start_resp _ _ _)
  | _ => cases hi

/-- Settles O34: a request that starts posts nothing, so one that posts at once raised an error and did no more. -/
theorem errorsComeBeforeEverySideEffect : Obligations.ErrorsComeBeforeEverySideEffect := by
  intro i s t hi h hne
  exact (exec_hostOp_posts hi h).resolve_right hne

end Sys2Proof.Machine
end

/-! ## The waveform of the trace (70_reset_and_hazards.md) -/

section

namespace Sys2Proof.Machine

/-- A list of events after which the automaton rests between two bytes, as it did before it. -/
def KeepsRest (es : List Event) : Prop := waveFrom waveStart es = some waveStart

theorem KeepsRest.append {a b : List Event} (ha : KeepsRest a) (hb : KeepsRest b) : KeepsRest (a ++ b) := by
  rw [KeepsRest, waveFrom_append, show waveFrom waveStart a = _ from ha]
  exact hb

theorem KeepsRest.flatMap {α : Type} {f : α → List Event} (h : ∀ x, KeepsRest (f x)) (xs : List α) :
    KeepsRest (xs.flatMap f) := by
  induction xs with
  | nil => rfl
  | cons x xs ih => exact (h x).append ih

/-- Raising a data line goes on driving the nibble. -/
theorem waveFrom_raiseIf (half b : Bool) {r : Role} (hrs : r ≠ .rs) (he : r ≠ .e) :
    waveFrom ⟨.driven, half⟩ (raiseIf b r) = some ⟨.driven, half⟩ := by
  cases b with
  | false => rfl
  | true => cases r with
    | rs => exact absurd rfl hrs
    | e => exact absurd rfl he
    | d4 | d5 | d6 | d7 => rfl

/-- A nibble is driven from wherever its first write may stand (R85). -/
theorem waveFrom_nibbleEvents {w : Wave} {half : Bool} (n : Nibble)
    (h : waveStep w (.set .d4 false) = some ⟨.driven, half⟩) :
    waveFrom w (nibbleEvents n) = some ⟨.driven, half⟩ := by
  have hlow : waveFrom w [.set .d4 false, .set .d5 false, .set .d6 false, .set .d7 false] =
      some ⟨.driven, half⟩ := by
    rw [waveFrom_cons, h]
    rfl
  simp (disch := decide) only [nibbleEvents, waveFrom_append, hlow, waveFrom_raiseIf, Option.bind_some]

/-- A pulse after a driven nibble completes the nibble (R80). -/
theorem waveFrom_toggleEvents (half : Bool) :
    waveFrom ⟨.driven, half⟩ toggleEvents = some ⟨.rest, !half⟩ := rfl

/-- A SEND is one whole byte of the waveform (R86). -/
theorem keepsRest_sendEvents (v : Byte) (m : Bool) : KeepsRest (sendEvents v m) := by
  have hselect : waveFrom waveStart [.set .rs m] = some ⟨.selected, false⟩ := rfl
  have hhigh : waveFrom ⟨.selected, false⟩ (nibbleEvents (highNibble v)) = some ⟨.driven, false⟩ :=
    waveFrom_nibbleEvents _ rfl
  have hlow : waveFrom ⟨.rest, true⟩ (nibbleEvents (lowNibble v)) = some ⟨.driven, true⟩ :=
    waveFrom_nibbleEvents _ rfl
  simp only [KeepsRest, sendEvents, waveFrom_append, hselect, hhigh, hlow, waveFrom_toggleEvents, Option.bind_some,
    Bool.not_false, Bool.not_true]
  rfl

theorem keepsRest_linePlan (text : List Byte) (line base : Byte) :
    KeepsRest (planEvents (linePlan text line base)) := by
  simp only [linePlan, planEvents_append, planEvents_withPre, planEvents_sendPlan, planEvents_flatMap]
  exact (keepsRest_sendEvents _ _).append (.flatMap (fun c => keepsRest_sendEvents c modeChr) _)

theorem keepsRest_constructPlan : KeepsRest (planEvents constructPlan) := by
  have hcfg : KeepsRest (allRoles.map Event.cfg) := rfl
  have hwait : KeepsRest [.wait .eDelay] := rfl
  simp only [constructPlan, initializePlan, planEvents_append, planEvents_plain, planEvents_flatMap,
    planEvents_sendPlan, planEvents_cons, planEvents_nil]
  exact hcfg.append ((KeepsRest.flatMap (fun v => keepsRest_sendEvents v modeCmd) _).append hwait)

/-- What an accepted operation performs is whole bytes, CFGs and extra waits (R98 to R101). -/
theorem keepsRest_acceptedPlan {p : Platform} {i : Instr} {l : Life} {ms : List Micro}
    (h : acceptedPlan p i = some (l, ms)) : KeepsRest (planEvents ms) := by
  cases i with
  | construct ids =>
    obtain ⟨_, -, hms⟩ := Option.map_eq_some_iff.1 h
    cases hms
    exact keepsRest_constructPlan
  | clear =>
    cases h
    rw [clearPlan, planEvents_sendPlan]
    exact keepsRest_sendEvents _ _
  | showLine text line =>
    obtain ⟨_, hline, hms⟩ := Option.map_eq_some_iff.1 h
    obtain ⟨base, -, rfl⟩ := Option.map_eq_some_iff.1 hline
    cases hms
    exact keepsRest_linePlan text line base
  | showBoth text =>
    cases h
    rw [showPlan, planEvents_append]
    exact (keepsRest_linePlan _ _ _).append (keepsRest_linePlan _ _ _)
  | _ => cases h

/-- No trace of the block violates the waveform rules, in the middle of an operation either (R144 to R147). -/
theorem Inv.waveFrom_pinTrace {s : State} (h : Inv s) : ∃ w, waveFrom waveStart s.pinTrace = some w := by
  obtain ⟨-, -, hctl⟩ := h
  split at hctl
  · obtain ⟨⟨-, hwhole, -⟩, -⟩ := hctl
    exact ⟨waveStart, hwhole⟩
  · next r _ =>
    obtain ⟨hplan, -, -, before, ⟨-, hbefore, -⟩, htrace⟩ := hctl
    have hrest : KeepsRest ((planEvents r.plan).take r.k ++ (planEvents r.plan).drop r.k) := by
      rw [List.take_append_drop]
      exact keepsRest_acceptedPlan hplan
    obtain ⟨w, hw, -⟩ := waveFrom_left hrest
    exact ⟨w, by rw [htrace, waveFrom_append, hbefore]; exact hw⟩

/-- The transitions of the waveform automaton, one constructor for each. -/
inductive WaveMove : Wave → Event → Wave → Prop
  /-- A byte starts with its mode. -/
  | select (b : Bool) : WaveMove ⟨.rest, false⟩ (.set .rs b) ⟨.selected, false⟩
  /-- An extra settle wait between two bytes (R96). -/
  | settle : WaveMove ⟨.rest, false⟩ (.wait .eDelay) ⟨.rest, false⟩
  /-- A line is configured, between two bytes (R101). -/
  | configure (r : Role) : WaveMove ⟨.rest, false⟩ (.cfg r) ⟨.rest, false⟩
  /-- The first nibble of the byte starts. -/
  | driveHigh (half : Bool) : WaveMove ⟨.selected, half⟩ (.set .d4 false) ⟨.driven, half⟩
  /-- The second nibble of the byte starts. -/
  | driveLow : WaveMove ⟨.rest, true⟩ (.set .d4 false) ⟨.driven, true⟩
  /-- Another write of the same nibble. -/
  | write {r : Role} {b : Bool} (half : Bool) (hrs : r ≠ .rs) (he : r ≠ .e) (hfirst : ¬ (r = .d4 ∧ b = false)) :
      WaveMove ⟨.driven, half⟩ (.set r b) ⟨.driven, half⟩
  /-- The settle wait before the pulse. -/
  | arm (half : Bool) : WaveMove ⟨.driven, half⟩ (.wait .eDelay) ⟨.armed, half⟩
  /-- E rises. -/
  | rise (half : Bool) : WaveMove ⟨.armed, half⟩ (.set .e true) ⟨.high, half⟩
  /-- The pulse wait. -/
  | hold (half : Bool) : WaveMove ⟨.high, half⟩ (.wait .ePulse) ⟨.pulsed, half⟩
  /-- E falls. -/
  | fall (half : Bool) : WaveMove ⟨.pulsed, half⟩ (.set .e false) ⟨.fallen, half⟩
  /-- The low-phase wait completes the nibble. -/
  | complete (half : Bool) : WaveMove ⟨.fallen, half⟩ (.wait .eDelay) ⟨.rest, !half⟩

/-- Every step of the automaton is one of these transitions. -/
theorem waveMove_of_waveStep {w u : Wave} {e : Event} (h : waveStep w e = some u) : WaveMove w e u := by
  obtain ⟨phase, half⟩ := w
  unfold waveStep at h
  split at h
  case h_1 r b hp =>
    cases hp
    cases half <;> cases r <;> cases b <;> cases h
    · exact .select false
    · exact .select true
    · exact .driveLow
  case h_2 hp =>
    cases hp
    cases half <;> cases h
    exact .settle
  case h_4 r hp =>
    cases hp
    cases half <;> cases h
    exact .configure r
  case h_5 hp => cases hp; cases h; exact .driveHigh half
  case h_7 r b hp =>
    cases hp
    cases r <;> cases b <;> cases h <;> exact .write half (by decide) (by decide) (by decide)
  case h_8 hp => cases hp; cases h; exact .arm half
  case h_11 hp => cases hp; cases h; exact .rise half
  case h_13 hp => cases hp; cases h; exact .hold half
  case h_15 hp => cases hp; cases h; exact .fall half
  case h_17 hp => cases hp; cases h; exact .complete half
  -- the branches left are the violations, which answer none
  all_goals cases h

theorem waveFrom_cons_some {w u : Wave} {e : Event} {t : List Event} (h : waveFrom w (e :: t) = some u) :
    ∃ v, WaveMove w e v ∧ waveFrom v t = some u := by
  obtain ⟨v, he, ht⟩ := Option.bind_eq_some_iff.1 h
  exact ⟨v, waveMove_of_waveStep he, ht⟩

theorem waveFrom_append_cons_some {w u : Wave} {a b : List Event} {e : Event}
    (h : waveFrom w (a ++ e :: b) = some u) :
    ∃ v v', waveFrom w a = some v ∧ WaveMove v e v' ∧ waveFrom v' b = some u := by
  obtain ⟨v, ha, hrest⟩ := waveFrom_left h
  obtain ⟨v', hm, hb⟩ := waveFrom_cons_some hrest
  exact ⟨v, v', ha, hm, hb⟩

/-- Each event of the trace is a transition, and the automaton runs on from it. -/
theorem Inv.waveMove_at {s : State} {a b : List Event} {e : Event} (h : Inv s) (ht : s.pinTrace = a ++ e :: b) :
    ∃ w v u, WaveMove w e v ∧ waveFrom v b = some u := by
  obtain ⟨u, hu⟩ := h.waveFrom_pinTrace
  obtain ⟨w, v, -, hm, hb⟩ := waveFrom_append_cons_some (ht ▸ hu)
  exact ⟨w, v, u, hm, hb⟩

/-! ### What one event says about the phases on its two sides -/

theorem WaveMove.of_set_e_true {w v : Wave} (h : WaveMove w (.set .e true) v) :
    ∃ half, w = ⟨.armed, half⟩ ∧ v = ⟨.high, half⟩ := by
  cases h with
  | write half hrs he hfirst => exact absurd rfl he
  | rise half => exact ⟨half, rfl, rfl⟩

theorem WaveMove.of_set_e_false {w v : Wave} (h : WaveMove w (.set .e false) v) :
    ∃ half, w = ⟨.pulsed, half⟩ ∧ v = ⟨.fallen, half⟩ := by
  cases h with
  | write half hrs he hfirst => exact absurd rfl he
  | fall half => exact ⟨half, rfl, rfl⟩

theorem WaveMove.of_set_rs {w v : Wave} {b : Bool} (h : WaveMove w (.set .rs b) v) :
    w = ⟨.rest, false⟩ ∧ v = ⟨.selected, false⟩ := by
  cases h with
  | select => exact ⟨rfl, rfl⟩
  | write half hrs he hfirst => exact absurd rfl hrs

theorem WaveMove.of_set_data {w v : Wave} {r : Role} {b : Bool} (hrs : r ≠ .rs) (he : r ≠ .e)
    (h : WaveMove w (.set r b) v) : ∃ half, v = ⟨.driven, half⟩ := by
  cases h with
  | select => exact absurd rfl hrs
  | rise | fall => exact absurd rfl he
  | driveHigh half | write half => exact ⟨half, rfl⟩
  | driveLow => exact ⟨true, rfl⟩

/-- The settle wait is the only way to the armed phase. -/
theorem WaveMove.eq_wait_of_armed {w : Wave} {e : Event} {half : Bool} (h : WaveMove w e ⟨.armed, half⟩) :
    e = .wait .eDelay := by
  cases h
  rfl

/-! ### Phases with one way out -/

/-- From `w` the automaton takes no event but `e`, and goes to `v` by it. -/
def OnlyMove (w : Wave) (e : Event) (v : Wave) : Prop := ∀ e' v', WaveMove w e' v' → e' = e ∧ v' = v

theorem onlyMove_armed (half : Bool) : OnlyMove ⟨.armed, half⟩ (.set .e true) ⟨.high, half⟩ := by
  rintro _ _ ⟨⟩
  exact ⟨rfl, rfl⟩

theorem onlyMove_high (half : Bool) : OnlyMove ⟨.high, half⟩ (.wait .ePulse) ⟨.pulsed, half⟩ := by
  rintro _ _ ⟨⟩
  exact ⟨rfl, rfl⟩

theorem onlyMove_pulsed (half : Bool) : OnlyMove ⟨.pulsed, half⟩ (.set .e false) ⟨.fallen, half⟩ := by
  rintro _ _ ⟨⟩
  exact ⟨rfl, rfl⟩

theorem onlyMove_fallen (half : Bool) : OnlyMove ⟨.fallen, half⟩ (.wait .eDelay) ⟨.rest, !half⟩ := by
  rintro _ _ ⟨⟩
  exact ⟨rfl, rfl⟩

/-- A trace that goes on from such a phase ends there or goes on with the one event. -/
theorem OnlyMove.waveFrom_some {w u v : Wave} {e : Event} {t : List Event} (h : OnlyMove w e v)
    (ht : waveFrom w t = some u) : t = [] ∨ ∃ c, t = e :: c ∧ waveFrom v c = some u := by
  cases t with
  | nil => exact .inl rfl
  | cons e' c =>
    obtain ⟨v', hm, hc⟩ := waveFrom_cons_some ht
    obtain ⟨rfl, rfl⟩ := h _ _ hm
    exact .inr ⟨c, rfl, hc⟩

/-- Settles O50: high and pulsed have one way out each. -/
theorem pulseIsOneWait : Obligations.PulseIsOneWait := by
  intro s a b hs ht
  obtain ⟨w, v, u, hm, hb⟩ := hs.waveMove_at ht
  obtain ⟨half, -, rfl⟩ := hm.of_set_e_true
  obtain rfl | ⟨b, rfl, hb⟩ := (onlyMove_high half).waveFrom_some hb
  · exact .inl rfl
  obtain rfl | ⟨c, rfl, -⟩ := (onlyMove_pulsed half).waveFrom_some hb
  · exact .inr (.inl rfl)
  · exact .inr (.inr ⟨c, rfl⟩)

/-! ### The waits before a rise of E -/

/-- The least number of waits between a phase and the next place where E may rise. -/
def waitsToRise : Phase → Nat
  | .armed => 0
  | .rest | .selected | .driven => 1
  | .pulsed | .fallen => 2
  | .high => 3

theorem waitCount_cons (e : Event) (t : List Event) : waitCount (e :: t) = waitCount [e] + waitCount t := by
  rw [← List.singleton_append, waitCount, List.filter_append, List.length_append]
  rfl

/-- A transition brings the rise nearer by no more than the waits in it. -/
theorem WaveMove.waitsToRise_le {w v : Wave} {e : Event} (h : WaveMove w e v) :
    waitsToRise w.phase ≤ waitCount [e] + waitsToRise v.phase := by
  cases h <;> simp [waitsToRise, waitCount]

theorem waitsToRise_le_of_waveFrom {w u : Wave} {t : List Event} (h : waveFrom w t = some u) :
    waitsToRise w.phase ≤ waitCount t + waitsToRise u.phase := by
  induction t generalizing w with
  | nil =>
    cases h
    exact Nat.le_add_left _ _
  | cons e t ih =>
    obtain ⟨v, hm, ht⟩ := waveFrom_cons_some h
    have hstep := hm.waitsToRise_le
    have hrest := ih ht
    rw [waitCount_cons]
    omega

/-- Settles O51: the fallen phase has one way out, and two waits lie between it and the armed phase. -/
theorem lowPhaseFollowsTheFall : Obligations.LowPhaseFollowsTheFall := by
  intro s a b hs ht
  obtain ⟨w, v, u, hm, hb⟩ := hs.waveMove_at ht
  obtain ⟨half, -, rfl⟩ := hm.of_set_e_false
  constructor
  · exact ((onlyMove_fallen half).waveFrom_some hb).imp_right fun ⟨c, hc, _⟩ => ⟨c, hc⟩
  · rintro mid c rfl
    obtain ⟨w', v', hmid, hrise, -⟩ := waveFrom_append_cons_some hb
    obtain ⟨half', rfl, -⟩ := hrise.of_set_e_true
    exact waitsToRise_le_of_waveFrom hmid

/-- Settles O52: a driven nibble goes on with another of its writes or with the settle wait, and armed has one way
out. -/
theorem pulseFollowsTheDrivenNibble : Obligations.PulseFollowsTheDrivenNibble := by
  intro s a b d x hs hrs he ht
  obtain ⟨w, v, u, hm, hb⟩ := hs.waveMove_at ht
  obtain ⟨half, rfl⟩ := hm.of_set_data hrs he
  cases b with
  | nil => exact .inl rfl
  | cons e c =>
    obtain ⟨v, hm, hc⟩ := waveFrom_cons_some hb
    cases hm with
    | write half hrs he hfirst => exact .inr (.inl ⟨_, _, c, hrs, he, hfirst, rfl⟩)
    | arm half =>
      obtain rfl | ⟨c, rfl, -⟩ := (onlyMove_armed half).waveFrom_some hc
      · exact .inr (.inr (.inl rfl))
      · exact .inr (.inr (.inr ⟨c, rfl⟩))

/-! ### The pulses of a byte -/

/-- The falls of E so far in the byte that is being sent, or in the last one when between two bytes. -/
def fallsInByte : Wave → Nat
  | ⟨.rest, half⟩ => if half then 1 else 2
  | ⟨.fallen, half⟩ => if half then 2 else 1
  | ⟨.selected, half⟩ | ⟨.driven, half⟩ | ⟨.armed, half⟩ | ⟨.high, half⟩ | ⟨.pulsed, half⟩ => if half then 1 else 0

/-- How many writes of RS a list of events holds. -/
def rsCount (t : List Event) : Nat := t.count (.set .rs false) + t.count (.set .rs true)

theorem rsCount_eq_zero {t : List Event} (h : ∀ b, Event.set .rs b ∉ t) : rsCount t = 0 := by
  rw [rsCount, List.count_eq_zero.2 (h false), List.count_eq_zero.2 (h true)]

theorem rsCount_cons (e : Event) (t : List Event) : rsCount (e :: t) = rsCount [e] + rsCount t := by
  simp only [rsCount, List.count_cons, List.count_nil]
  omega

/-- A fall counts one more in the byte; a write of RS counts two from it, those of the byte before. -/
theorem WaveMove.fallsInByte_add {w v : Wave} {e : Event} (h : WaveMove w e v) :
    fallsInByte w + [e].count (.set .e false) = fallsInByte v + 2 * rsCount [e] := by
  cases h with
  | write half hrs he => simp [rsCount, fallsInByte, hrs, he]
  | select b => cases b <;> rfl
  | settle | configure | driveLow => rfl
  | driveHigh half | arm half | rise half | hold half | fall half | complete half => cases half <;> rfl

theorem fallsInByte_add_of_waveFrom {w u : Wave} {t : List Event} (h : waveFrom w t = some u) :
    fallsInByte w + t.count (.set .e false) = fallsInByte u + 2 * rsCount t := by
  induction t generalizing w with
  | nil =>
    cases h
    rfl
  | cons e t ih =>
    obtain ⟨v, hm, ht⟩ := waveFrom_cons_some h
    have hstep := hm.fallsInByte_add
    have hrest := ih ht
    have hcons : (e :: t).count (.set .e false) = [e].count (.set .e false) + t.count (.set .e false) :=
      List.count_append (l₁ := [e])
    rw [hcons, rsCount_cons]
    omega

/-- From one write of RS to another there are two falls, and two more for each write of RS between them (R144). -/
theorem count_fall_between_rs {mid : List Event} (h : waveFrom ⟨.selected, false⟩ mid = some ⟨.rest, false⟩) :
    mid.count (.set .e false) = 2 + 2 * rsCount mid := by
  have hcount := fallsInByte_add_of_waveFrom h
  exact (Nat.zero_add _).symm.trans hcount

/-- A list with a fall splits at the first one. -/
theorem exists_split_at_fall {t : List Event} {n : Nat} (h : t.count (.set .e false) = n + 1) :
    ∃ p q, t = p ++ .set .e false :: q ∧ p.count (.set .e false) = 0 ∧ q.count (.set .e false) = n := by
  have hmem : Event.set .e false ∈ t := List.count_pos_iff.1 (by omega)
  obtain ⟨p, q, rfl, hp⟩ := List.eq_append_cons_of_mem hmem
  have hp0 := List.count_eq_zero.2 hp
  rw [List.count_append, List.count_cons_self, hp0] at h
  exact ⟨p, q, rfl, hp0, by omega⟩

/-- The low-phase wait follows the second pulse of a byte that is complete (R144, R147). -/
theorem wait_after_second_fall {mid : List Event} {half : Bool} {w : Wave}
    (h : waveFrom w mid = some ⟨.rest, half⟩) (hfalls : mid.count (.set .e false) = 2) :
    ∃ p q, mid = p ++ .set .e false :: .wait .eDelay :: q ∧ p.count (.set .e false) = 1 ∧
      Event.set .e false ∉ q := by
  obtain ⟨p₁, r, rfl, hp₁, hr⟩ := exists_split_at_fall hfalls
  obtain ⟨p₂, q, rfl, hp₂, hq⟩ := exists_split_at_fall hr
  rw [← List.cons_append, ← List.append_assoc] at h ⊢
  obtain ⟨v, v', -, hfall, hrest⟩ := waveFrom_append_cons_some h
  obtain ⟨half', -, rfl⟩ := hfall.of_set_e_false
  obtain rfl | ⟨c, rfl, -⟩ := (onlyMove_fallen half').waveFrom_some hrest
  · cases hrest
  · refine ⟨_, c, rfl, ?_, fun hc => List.count_eq_zero.1 hq (List.mem_cons_of_mem _ hc)⟩
    rw [List.count_append, List.count_cons_self, hp₁, hp₂]

/-- No pulse comes without its settle wait (R144, R145). -/
theorem wait_mem_of_armed {w : Wave} {mid : List Event} {half : Bool} (hw : w.phase ≠ .armed)
    (h : waveFrom w mid = some ⟨.armed, half⟩) : Event.wait .eDelay ∈ mid := by
  obtain rfl | ⟨before, e, rfl⟩ := List.eq_nil_or_concat' mid
  · cases h
    exact absurd rfl hw
  · obtain ⟨v, v', -, hm, hlast⟩ := waveFrom_append_cons_some h
    cases hlast
    rw [hm.eq_wait_of_armed]
    exact List.mem_append_right _ (List.mem_singleton_self _)

/-- After a write of RS the automaton runs from the selected phase to whatever comes later. -/
theorem Inv.waveFrom_after_rs {s : State} {a mid b : List Event} {m : Bool} {e : Event} (h : Inv s)
    (ht : s.pinTrace = a ++ .set .rs m :: mid ++ e :: b) :
    ∃ w v, waveFrom ⟨.selected, false⟩ mid = some w ∧ WaveMove w e v := by
  rw [List.append_assoc, List.cons_append] at ht
  obtain ⟨w, v, u, hm, hrest⟩ := h.waveMove_at ht
  obtain ⟨-, rfl⟩ := hm.of_set_rs
  obtain ⟨w', v', hmid, hm', -⟩ := waveFrom_append_cons_some hrest
  exact ⟨w', v', hmid, hm'⟩

/-- Settles O53: the falls between two writes of RS are two for each byte, and the way from the selected to the armed
phase ends with the settle wait. -/
theorem rsIsStableThroughBothPulses : Obligations.RsIsStableThroughBothPulses := by
  intro s a mid b m hs
  refine ⟨fun m' ht => ?between, fun ht => ?settle⟩
  case between =>
    obtain ⟨w, v, hmid, hnext⟩ := hs.waveFrom_after_rs ht
    obtain ⟨rfl, -⟩ := hnext.of_set_rs
    have hcount := count_fall_between_rs hmid
    have hfilter (t : List Event) : (t.filter fun e => e = .set .e false).length = t.count (.set .e false) :=
      List.count_eq_length_filter.symm
    simp only [hfilter]
    refine ⟨by omega, List.count_pos_iff.1 (by omega), fun hrs => ?_⟩
    rw [rsCount_eq_zero hrs] at hcount
    exact wait_after_second_fall hmid hcount
  case settle =>
    obtain ⟨w, v, hmid, hrise⟩ := hs.waveFrom_after_rs ht
    obtain ⟨half, rfl, -⟩ := hrise.of_set_e_true
    exact wait_mem_of_armed (by decide) hmid

end Sys2Proof.Machine
end

/-! ## Decoding what was encoded (30_encoding.md) -/

section

namespace Sys2Proof

/-- A length below 2^16 is what its two length bytes write (R70). -/
theorem toNat_length_bytes {n : Nat} (h : n < 65536) :
    (BitVec.ofNat 8 (n / 256)).toNat * 256 + (BitVec.ofNat 8 (n % 256)).toNat = n := by
  rw [BitVec.toNat_ofNat, BitVec.toNat_ofNat]
  omega

/-- A text operand is read back, whatever follows it (R70). -/
theorem decodeText_encodeText (f : List Byte → Instr) {text : List Byte} (h : TextFits text) (rest : List Byte) :
    decodeText f (encodeText text ++ rest) = .instr (f text) rest := by
  simp only [decodeText, encodeText, List.cons_append, toNat_length_bytes h]
  simp

/-- A mode and a byte are read back from a transmit word (R61). -/
theorem decodeTxw_byteOfBool (f : Byte → Bool → Instr) (m : Bool) (v : Byte) (rest : List Byte) :
    decodeTxw f (byteOfBool m :: v :: rest) = .instr (f v m) rest := by
  cases m <;> rfl

/-- A nibble in a byte of its own is read back (log 2). -/
theorem decodeIntsel_driveNibble (n : Nibble) (rest : List Byte) :
    decodeIntsel (1#8 :: n.setWidth 8 :: rest) = .instr (.driveNibble n) rest := by
  have hlt : (n.setWidth 8).toNat < 16 := by
    rw [BitVec.toNat_setWidth_of_le (by decide)]
    exact n.isLt
  have hback : (n.setWidth 8).setWidth 4 = n := by
    rw [BitVec.setWidth_setWidth_of_le _ (by decide), BitVec.setWidth_eq]
  show (if (n.setWidth 8).toNat < 16 then Decoded.instr (.driveNibble ((n.setWidth 8).setWidth 4)) rest
    else .refused .bitsAboveWidth) = _
  rw [if_pos hlt, hback]

/-- A nibble frame is read back: bit 4 is RS, bits 3:0 the data lines (R62). -/
theorem decodeNf_frame (m : Bool) (n : Nibble) (rest : List Byte) :
    decodeNf (BitVec.ofNat 8 (n.toNat + if m then 16 else 0) :: rest) = .instr (.frame m n) rest := by
  have hword : ∀ (m : Bool) (n : Nibble), (BitVec.ofNat 8 (n.toNat + if m then 16 else 0)).toNat < 32 ∧
      (BitVec.ofNat 8 (n.toNat + if m then 16 else 0)).getLsbD 4 = m ∧
      (BitVec.ofNat 8 (n.toNat + if m then 16 else 0)).setWidth 4 = n := by decide
  obtain ⟨hlt, hm, hn⟩ := hword m n
  simp only [decodeNf, hlt, hm, hn, if_true]

/-- A role and a level are read back from one byte (log 2). -/
theorem decodeEvsel_set (r : Role) (b : Bool) (rest : List Byte) :
    decodeEvsel (0#8 :: BitVec.ofNat 8 (2 * natOfRole r + if b then 1 else 0) :: rest) = .instr (.set r b) rest := by
  cases r <;> cases b <;> rfl

/-- A role is read back from its number (log 2). -/
theorem decodeEvsel_cfg (r : Role) (rest : List Byte) :
    decodeEvsel (2#8 :: BitVec.ofNat 8 (natOfRole r) :: rest) = .instr (.cfg r) rest := by
  cases r <;> rfl

/-- Settles O13: row by row; the rows with operands read each operand back. -/
theorem decodeOfEncode : Obligations.DecodeOfEncode := by
  intro i rest hwf
  cases i with
  | showLine text line => exact decodeText_encodeText (fun text => .showLine text line) hwf rest
  | showBoth text => exact decodeText_encodeText (fun text => .showBoth text) hwf rest
  | writeLine text line => exact decodeText_encodeText (fun text => .writeLine text line) hwf rest
  | driveNibble n => exact decodeIntsel_driveNibble n rest
  | send v m => exact decodeTxw_byteOfBool (fun v m => .send v m) m v rest
  | frame m n => exact decodeNf_frame m n rest
  | set r b => exact decodeEvsel_set r b rest
  | wait d => cases d <;> rfl
  | cfg r => exact decodeEvsel_cfg r rest
  | construct _ | clear | toggleE | initializeLcd | sendCmd _ | sendChr _ | init0 | init1 | init2 | init3 | init4
  | init5 | addrL1 | addrL2 | chr _ | ok | invalidPinID | invalidLineNumber => rfl

/-- Settles O14: each word is read as its table says. -/
theorem writtenOutWordsDecode : Obligations.WrittenOutWordsDecode := by
  unfold Obligations.WrittenOutWordsDecode
  decide

end Sys2Proof
end

/-! ## The lines and the trace under every step (10_state.md) -/

section

namespace Sys2Proof.Machine

/-- One event makes a line an output exactly when it configures it (R13, R34). -/
theorem getLine_dirsStep (d : Lines Dir) (e : Event) (r : Role) :
    getLine (dirsStep d e) r = .output ↔ getLine d r = .output ∨ Event.cfg r = e := by
  cases e with
  | cfg q =>
    by_cases h : r = q
    · subst h
      simp [dirsStep]
    · simp [dirsStep, h]
  | set q b => simp [dirsStep]
  | wait w => simp [dirsStep]

/-- After a list of events the outputs are those of before and those that it configures (R13). -/
theorem getLine_dirsAfter (d : Lines Dir) (es : List Event) (r : Role) :
    getLine (dirsAfter d es) r = .output ↔ getLine d r = .output ∨ Event.cfg r ∈ es := by
  induction es generalizing d with
  | nil => simp [dirsAfter]
  | cons e rest ih =>
    rw [List.mem_cons, ← or_assoc, ← getLine_dirsStep d e r]
    exact ih (dirsStep d e)

/-- Events that act on the lines as events do keep the lines what the trace made them. -/
theorem Moved.linesFollowTrace {s t : State} {es : List Event} (h : Moved s t es) (hs : LinesFollowTrace s) :
    LinesFollowTrace t := by
  obtain ⟨hlevel, hdir⟩ := hs
  refine ⟨?_, fun r => ?_⟩
  · rw [h.level, h.plat, h.pinTrace, levelsAfter_append, hlevel]
  · rw [h.dir, h.pinTrace, List.mem_append, getLine_dirsAfter, hdir r]

/-- Reset leaves the lines as an empty trace has them (R30, R140). -/
theorem linesFollowTrace_applyReset (s : State) : LinesFollowTrace s.applyReset :=
  ⟨rfl, fun r => by simp [State.applyReset, State.reset]⟩

/-- What a step that is no reset does to the lines, the trace and the platform: some events, and no more. The state
that moves differs from the one before the step by its inputs alone. -/
theorem step_moved {s t : State} (hr : s.rst = false) (h : step s = .next t) :
    ∃ u es, Moved u t es ∧ u.pinTrace = s.pinTrace ∧ u.level = s.level ∧ u.dir = s.dir ∧ u.plat = s.plat := by
  obtain ⟨hr', -⟩ | ⟨-, ⟨i, -, hx⟩ | ⟨-, ⟨i, rest, -, hx⟩ | ⟨-, hbusy | hend | hidle⟩⟩⟩ := step_next h
  · exact absurd (hr.symm.trans hr') Bool.false_ne_true
  · obtain ⟨es, hm⟩ := exec_moved hx
    exact ⟨_, es, hm, rfl, rfl, rfl, rfl⟩
  · obtain ⟨es, hm⟩ := exec_moved hx
    exact ⟨_, es, hm, rfl, rfl, rfl, rfl⟩
  · obtain ⟨r, m, -, -, hp⟩ := hbusy
    exact ⟨_, _, (perform_next hp).moved, by simp⟩
  · obtain ⟨r, -, -, hf⟩ := hend
    obtain ⟨es, hm⟩ := exec_moved (i := .ok) hf
    exact ⟨_, es, hm, rfl, rfl, rfl, rfl⟩
  · obtain ⟨-, rfl | ⟨q, later, -, -, rfl⟩⟩ := hidle
    · exact ⟨t, [], (Ran.refl t).moved, rfl, rfl, rfl, rfl⟩
    · exact ⟨_, [], (Ran.refl _).moved, rfl, rfl, rfl, rfl⟩

/-- A step that resets leaves the reset state (R140). -/
theorem step_of_rst {s : State} (h : s.rst = true) : step s = .next s.applyReset := by
  simp [step, State.fetch, h]

/-- Settles O6: a reset leaves an empty trace, and every other step moves the lines by its events. -/
theorem linesFollowTraceEveryStep : Obligations.LinesFollowTraceEveryStep := by
  intro s t hs h
  by_cases hr : s.rst = true
  · cases (step_of_rst hr).symm.trans h
    exact linesFollowTrace_applyReset s
  · obtain ⟨u, es, hm, htrace, hlevel, hdir, hplat⟩ := step_moved (Bool.eq_false_of_not_eq_true hr) h
    refine hm.linesFollowTrace ?_
    unfold LinesFollowTrace
    rw [htrace, hlevel, hdir, hplat]
    exact hs

/-- Settles O9: neither a reset nor the events of a step touch the platform. -/
theorem platformIsFixed : Obligations.PlatformIsFixed := by
  intro s t h
  by_cases hr : s.rst = true
  · cases (step_of_rst hr).symm.trans h
    rfl
  · obtain ⟨u, es, hm, -, -, -, hplat⟩ := step_moved (Bool.eq_false_of_not_eq_true hr) h
    exact hm.plat.trans hplat

/-- Settles O1: reset is written out field by field. -/
theorem resetLeavesUnconstructedIdle : Obligations.ResetLeavesUnconstructedIdle :=
  ⟨rfl, rfl, rfl, rfl, rfl, rfl, rfl, rfl⟩

/-- Settles O2: such a step is the reset, whatever else the state holds. -/
theorem resetInputDiscardsTheRunningOperation : Obligations.ResetInputDiscardsTheRunningOperation := by
  intro s h
  exact ⟨s.applyReset, step_of_rst h, rfl, rfl, rfl, rfl, rfl, rfl, rfl, rfl, rfl, rfl, rfl, rfl, rfl⟩

/-- Settles O4: the row performs its event, and both durations are written out. -/
theorem waitChangesOnlyTheTimer : Obligations.WaitChangesOnlyTheTimer := by
  refine ⟨fun d s => ⟨(s.runTimer d).timer, rfl⟩, fun d => ?_⟩
  cases d <;> rfl

/-- CFG on a bound line does its effect and is appended to the trace (R34). -/
theorem perform_cfg_of_bound {r : Role} {s : State} (h : (getLine s.handle r).isSome) :
    perform (.cfg r) s = .next ((s.configure r).emit (.cfg r)) :=
  if_pos h

/-- Settles O5: the row CFG performs its event, whose requirement the line meets. -/
theorem cfgMakesTheLineAnOutput : Obligations.CfgMakesTheLineAnOutput := by
  intro r s h
  exact perform_cfg_of_bound h

end Sys2Proof.Machine
end

/-! ## What an observer reads (20_memory.md) -/

section

namespace Sys2Proof.Machine

/-- Four written data lines and RS are sampled as the nibble and the mode (R54). -/
theorem sampleFrame_levels (m : Bool) (e : Level) (n : Nibble) :
    sampleFrame ⟨levelOfBool m, e, levelOfBool (n.getLsbD 0), levelOfBool (n.getLsbD 1),
      levelOfBool (n.getLsbD 2), levelOfBool (n.getLsbD 3)⟩ = some (m, n) := by
  have hbits : ∀ n : Nibble, BitVec.ofBool (n.getLsbD 3) ++ BitVec.ofBool (n.getLsbD 2) ++
      BitVec.ofBool (n.getLsbD 1) ++ BitVec.ofBool (n.getLsbD 0) = n := by decide
  simp only [sampleFrame, toBool?_levelOfBool]
  exact congrArg (fun n => some (m, n)) (hbits n)

/-- A nibble and a pulse, with RS written: one strobe with that nibble and that mode (R54, R80, R85). -/
theorem strobesFrom_nibble_toggle {l : Lines Level} {m : Bool} (h : l.rs = levelOfBool m) (n : Nibble)
    (es : List Event) :
    strobesFrom l (nibbleEvents n ++ (toggleEvents ++ es)) =
      (strobesFrom (levelsAfter l (nibbleEvents n ++ toggleEvents)) es).map fun ps => (m, n) :: ps := by
  rw [strobesFrom_nibble, strobesFrom_toggle, levelsAfter_append, levelsAfter_toggle, levelsAfter_nibble, h,
    sampleFrame_levels, Option.bind_some]

/-- A SEND is seen as its two nibbles in its mode, high first, whatever the levels before it (R56). -/
theorem strobesFrom_sendEvents (l : Lines Level) (v : Byte) (m : Bool) (es : List Event) :
    strobesFrom l (sendEvents v m ++ es) = (strobesFrom (levelsAfter l (sendEvents v m)) es).map
      fun ps => (m, highNibble v) :: (m, lowNibble v) :: ps := by
  have hrs : (levelsAfter (levelsStep l (.set .rs m)) (nibbleEvents (highNibble v) ++ toggleEvents)).rs =
      levelOfBool m := by
    rw [levelsAfter_append, levelsAfter_toggle, levelsAfter_nibble]
    rfl
  simp only [sendEvents, List.append_assoc, List.cons_append, List.nil_append]
  rw [strobesFrom_step _ rfl, strobesFrom_nibble_toggle (m := m) rfl, strobesFrom_nibble_toggle hrs,
    Option.map_map, ← levelsAfter_append, List.append_assoc]
  rfl

/-- Pairing goes on after pairs that are whole (R55). -/
theorem pairStrobes_append {ps : List (Bool × Nibble)} {bs : List (Bool × Byte)} (h : pairStrobes ps = some bs)
    (qs : List (Bool × Nibble)) : pairStrobes (ps ++ qs) = (pairStrobes qs).map fun cs => bs ++ cs := by
  induction ps using pairStrobes.induct generalizing bs with
  | case1 =>
    cases h
    simp
  | case2 p => cases h
  | case3 p q rest heq ih =>
    rw [pairStrobes, if_pos heq] at h
    obtain ⟨ds, hds, rfl⟩ := Option.map_eq_some_iff.1 h
    rw [List.cons_append, List.cons_append, pairStrobes, if_pos heq, ih hds, Option.map_map]
    rfl
  | case4 p q rest hne =>
    rw [pairStrobes, if_neg hne] at h
    cases h

/-- Strobes that pair to bytes are even in number (R31 d). -/
theorem pairStrobes_length {ps : List (Bool × Nibble)} {bs : List (Bool × Byte)} (h : pairStrobes ps = some bs) :
    ps.length = 2 * bs.length := by
  induction ps using pairStrobes.induct generalizing bs with
  | case1 =>
    cases h
    rfl
  | case2 p => cases h
  | case3 p q rest heq ih =>
    rw [pairStrobes, if_pos heq] at h
    obtain ⟨ds, hds, rfl⟩ := Option.map_eq_some_iff.1 h
    have := ih hds
    simp only [List.length_cons]
    omega
  | case4 p q rest hne =>
    rw [pairStrobes, if_neg hne] at h
    cases h

/-- A list of events is read as these bytes from any levels. -/
def Transmits (es : List Event) (bs : List (Bool × Byte)) : Prop :=
  ∀ l : Lines Level, ∃ ps, strobesFrom l es = some ps ∧ pairStrobes ps = some bs

/-- What transmits bytes is read as them (R55). -/
theorem Transmits.bytesOf_eq {es : List Event} {bs : List (Bool × Byte)} (h : Transmits es bs) :
    bytesOf es = some bs := by
  obtain ⟨ps, hs, hp⟩ := h (allLines .x)
  rw [bytesOf, strobes, hs]
  exact hp

theorem Transmits.append {a b : List Event} {bs cs : List (Bool × Byte)} (ha : Transmits a bs)
    (hb : Transmits b cs) : Transmits (a ++ b) (bs ++ cs) := by
  intro l
  obtain ⟨ps, hps, hbs⟩ := ha l
  obtain ⟨qs, hqs, hcs⟩ := hb (levelsAfter l a)
  refine ⟨ps ++ qs, ?_, ?_⟩
  · rw [strobesFrom_append, hps, hqs]
    rfl
  · rw [pairStrobes_append hbs, hcs]
    rfl

theorem transmits_flatMap {α : Type} {f : α → List Event} {g : α → Bool × Byte} (h : ∀ x, Transmits (f x) [g x])
    (xs : List α) : Transmits (xs.flatMap f) (xs.map g) := by
  induction xs with
  | nil => exact fun l => ⟨[], rfl, rfl⟩
  | cons x xs ih => exact (h x).append ih

/-- Bytes transmitted after bytes transmitted are read after them. -/
theorem bytesOf_append {t es : List Event} {bs cs : List (Bool × Byte)} (ht : bytesOf t = some bs)
    (h : Transmits es cs) : bytesOf (t ++ es) = some (bs ++ cs) := by
  obtain ⟨ps, hps, hbs⟩ := Option.bind_eq_some_iff.1 ht
  obtain ⟨qs, hqs, hcs⟩ := h (levelsAfter (allLines .x) t)
  rw [bytesOf, strobes, strobesFrom_append, show strobesFrom _ t = some ps from hps, hqs]
  show pairStrobes (ps ++ qs) = _
  rw [pairStrobes_append hbs, hcs]
  rfl

/-- A trace that starts with transmitted bytes is read with them in front. -/
theorem exists_bytesOf_of_transmits {a b : List Event} {bs cs : List (Bool × Byte)} (ha : Transmits a cs)
    (h : bytesOf (a ++ b) = some bs) : ∃ more, bs = cs ++ more := by
  obtain ⟨ps, hps, hcs⟩ := ha (allLines .x)
  rw [bytesOf, strobes, strobesFrom_append, hps, Option.bind_some] at h
  obtain ⟨qs, hqs, hbs⟩ := Option.bind_eq_some_iff.1 h
  obtain ⟨rs, -, rfl⟩ := Option.map_eq_some_iff.1 hqs
  rw [pairStrobes_append hcs] at hbs
  obtain ⟨more, -, rfl⟩ := Option.map_eq_some_iff.1 hbs
  exact ⟨more, rfl⟩

/-- A SEND transmits its byte in its mode (R56, R93). -/
theorem transmits_sendEvents (v : Byte) (m : Bool) : Transmits (sendEvents v m) [(m, v)] := by
  intro l
  refine ⟨[(m, highNibble v), (m, lowNibble v)], ?_, ?_⟩
  · rw [← List.append_nil (sendEvents v m), strobesFrom_sendEvents]
    rfl
  · simp [pairStrobes, joinNibbles_highNibble_lowNibble]

/-- Settles O24: the two nibbles of the SEND, which join to its byte. -/
theorem sendIsReadBack : Obligations.SendIsReadBack := by
  intro v m l more
  exact ⟨strobesFrom_sendEvents l v m more, (transmits_sendEvents v m).bytesOf_eq⟩

/-! ### The list of each operation -/

/-- The events of INITIALIZE: six SENDs and one more wait (R96). -/
theorem planEvents_initializePlan :
    planEvents initializePlan = initSeq.flatMap (fun v => sendEvents v modeCmd) ++ [.wait .eDelay] := by
  simp [initializePlan]

/-- The events of CONSTRUCT: six CFG, then INITIALIZE (R101). -/
theorem planEvents_constructPlan :
    planEvents constructPlan = allRoles.map Event.cfg ++ planEvents initializePlan := by
  simp [constructPlan]

/-- The events of CLEAR: one SEND (R98). -/
theorem planEvents_clearPlan : planEvents clearPlan = sendEvents clearCmd modeCmd := by
  simp [clearPlan]

/-- The events of WRITE_LINE: the address byte, then the 16 codes (R97). -/
theorem planEvents_linePlan (text : List Byte) (line base : Byte) :
    planEvents (linePlan text line base) =
      sendEvents base modeCmd ++ (normText text).toList.flatMap fun c => sendEvents c modeChr := by
  simp [linePlan]

/-- The events of SHOW: both lines, line 1 first (R100). -/
theorem planEvents_showPlan (text : List Byte) :
    planEvents (showPlan text) = planEvents (linePlan (chunk1 text) 1#8 lineBase1) ++
      planEvents (linePlan (chunk2 text) 2#8 lineBase2) := by
  simp [showPlan]

theorem transmits_initializePlan : Transmits (planEvents initializePlan) initBytes := by
  have hwait : Transmits [.wait .eDelay] [] := fun l => ⟨[], rfl, rfl⟩
  rw [planEvents_initializePlan]
  exact (transmits_flatMap (fun v => transmits_sendEvents v modeCmd) initSeq).append hwait

theorem transmits_constructPlan : Transmits (planEvents constructPlan) initBytes := by
  have hcfg : Transmits (allRoles.map Event.cfg) [] := fun l => ⟨[], rfl, rfl⟩
  rw [planEvents_constructPlan]
  exact hcfg.append transmits_initializePlan

theorem transmits_clearPlan : Transmits (planEvents clearPlan) [(false, clearCmd)] := by
  rw [planEvents_clearPlan]
  exact transmits_sendEvents clearCmd modeCmd

theorem transmits_linePlan (text : List Byte) (line base : Byte) :
    Transmits (planEvents (linePlan text line base)) (lineBytes text base) := by
  rw [planEvents_linePlan]
  exact (transmits_sendEvents base modeCmd).append (transmits_flatMap (fun c => transmits_sendEvents c modeChr) _)

theorem transmits_showPlan (text : List Byte) : Transmits (planEvents (showPlan text))
    (lineBytes (chunk1 text) lineBase1 ++ lineBytes (chunk2 text) lineBase2) := by
  rw [planEvents_showPlan]
  exact (transmits_linePlan _ _ _).append (transmits_linePlan _ _ _)

/-- Settles O39: each list transmits its bytes from any levels, so from the start. -/
theorem bytesOfEachOperation : Obligations.BytesOfEachOperation :=
  ⟨transmits_initializePlan.bytesOf_eq, transmits_constructPlan.bytesOf_eq, transmits_clearPlan.bytesOf_eq,
    fun text line base => (transmits_linePlan text line base).bytesOf_eq,
    fun text => (transmits_showPlan text).bytesOf_eq⟩

end Sys2Proof.Machine
end

/-! ## Sizes of the operations and the text operands (42_sequencer.md, 30_encoding.md) -/

section

namespace Sys2Proof.Machine

/-- The sizes of joined lists add up (R112, R157). -/
theorem sizes_append (a b : List Event) : sizes (a ++ b) = sizes a + sizes b := by
  simp [sizes, waitCount, waitMicros]

/-- DRIVE_NIBBLE resets four lines and sets one for each 1 bit, and waits never (R85, R112). -/
theorem sizes_nibbleEvents (n : Nibble) : sizes (nibbleEvents n) = (4 + popcount n, 0, 0) := by
  revert n
  decide

/-- The 1 bits of a byte are those of its two nibbles (R63). -/
theorem popcount_eq_nibbles (v : Byte) : popcount v = popcount (highNibble v) + popcount (lowNibble v) := by
  revert v
  decide

/-- A SEND performs 19 events and one more for each 1 bit of its byte, and six of them are waits (R112). -/
theorem sizes_sendEvents (v : Byte) (m : Bool) : sizes (sendEvents v m) = (19 + popcount v, 6, 3000) := by
  have htoggle : sizes toggleEvents = (5, 3, 1500) := rfl
  have hrs : sizes [.set .rs m] = (1, 0, 0) := rfl
  simp only [sendEvents, sizes_append, hrs, htoggle, sizes_nibbleEvents, popcount_eq_nibbles v, Prod.mk_add_mk]
  rw [Prod.mk.injEq]
  exact ⟨by omega, rfl⟩

/-- The sizes of SENDs in a row (R112). -/
theorem sizes_flatMap_sendEvents (cs : List Byte) (m : Bool) : sizes (cs.flatMap fun c => sendEvents c m) =
    (19 * cs.length + popcounts cs, 6 * cs.length, 3000 * cs.length) := by
  induction cs with
  | nil => rfl
  | cons c rest ih =>
    rw [List.flatMap_cons, sizes_append, sizes_sendEvents, ih]
    simp only [popcounts, List.map_cons, List.sum_cons, List.length_cons, Prod.mk_add_mk, Prod.mk.injEq]
    omega

theorem sizes_initializePlan : sizes (planEvents initializePlan) = (129, 37, 18500) := by
  rw [planEvents_initializePlan, sizes_append, sizes_flatMap_sendEvents]
  decide

theorem sizes_constructPlan : sizes (planEvents constructPlan) = (135, 37, 18500) := by
  rw [planEvents_constructPlan, sizes_append, sizes_initializePlan]
  rfl

theorem sizes_clearPlan : sizes (planEvents clearPlan) = (20, 6, 3000) := by
  rw [planEvents_clearPlan, sizes_sendEvents]
  rfl

/-- A line write is 17 SENDs, the first of the address byte (R112). -/
theorem sizes_linePlan (text : List Byte) (line base : Byte) : sizes (planEvents (linePlan text line base)) =
    (323 + popcount base + popcounts (normText text).toList, 102, 51000) := by
  rw [planEvents_linePlan, sizes_append, sizes_sendEvents, sizes_flatMap_sendEvents, Vector.length_toList,
    Prod.mk_add_mk, Prod.mk.injEq]
  exact ⟨by omega, rfl⟩

theorem sizes_showPlan (text : List Byte) : sizes (planEvents (showPlan text)) =
    (649 + popcounts (normText (chunk1 text)).toList + popcounts (normText (chunk2 text)).toList, 204, 102000) := by
  have h1 : popcount lineBase1 = 1 := rfl
  have h2 : popcount lineBase2 = 2 := rfl
  rw [planEvents_showPlan, sizes_append, sizes_linePlan, sizes_linePlan, h1, h2, Prod.mk_add_mk, Prod.mk.injEq]
  exact ⟨by omega, rfl⟩

/-- A byte has at most eight 1 bits, so `n` codes have at most `8 * n`. -/
theorem popcounts_le (cs : List Byte) : popcounts cs ≤ 8 * cs.length := by
  have hle : ∀ x ∈ cs.map popcount, x ≤ 8 := by
    intro x hx
    obtain ⟨c, -, rfl⟩ := List.mem_map.1 hx
    exact (List.length_filter_le _ _).trans (List.length_range).le
  have := List.sum_le_card_nsmul _ _ hle
  rw [List.length_map, smul_eq_mul] at this
  rw [popcounts, Nat.mul_comm]
  exact this

/-- A SHOW is never longer than 905 events: 649, and at most 8 for each of its 32 codes (R112). -/
theorem length_showPlan_le (text : List Byte) : (planEvents (showPlan text)).length ≤ 905 := by
  have hlen := congrArg Prod.fst (sizes_showPlan text)
  have h1 := popcounts_le (normText (chunk1 text)).toList
  have h2 := popcounts_le (normText (chunk2 text)).toList
  rw [Vector.length_toList] at h1 h2
  simp only [sizes] at hlen
  omega

/-- Settles O38: the sizes of the parts of each list add up. -/
theorem operationSizes : Obligations.OperationSizes :=
  ⟨rfl, sizes_nibbleEvents, sizes_sendEvents, sizes_initializePlan, sizes_constructPlan, sizes_clearPlan,
    fun text => ⟨sizes_linePlan text 1#8 0x80#8, sizes_linePlan text 2#8 0xC0#8, sizes_showPlan text,
      length_showPlan_le text⟩⟩

/-- Code `i` of the normalised text: the text's own, and spaces after its end (R67). -/
theorem getElem_normText (text : List Byte) {i : Nat} (hi : i < 16) :
    (normText text)[i] = if h : i < text.length then text[i] else space := by
  simp [normText, List.getElem_append]

/-- Settles O17: the normalised text is read by its positions, and the chunks are the two slices of the text. -/
theorem textsArePaddedCutAndSplit : Obligations.TextsArePaddedCutAndSplit := by
  refine ⟨fun text i hi => getElem_normText text hi, fun text => ⟨fun i hi => ⟨?_, ?_⟩, ?_, ?_, fun h => ?_⟩⟩
  · exact List.getElem?_take_of_lt hi
  · exact (List.getElem?_take_of_lt hi).trans List.getElem?_drop
  · exact List.length_take_le _ _
  · exact List.length_take_le _ _
  · rw [chunk2, show text.drop showChunk = [] from List.drop_of_length_le h, List.take_nil]

end Sys2Proof.Machine
end

/-! ## The transmitter's other rows (41_transmitter.md, 30_encoding.md) -/

section

namespace Sys2Proof.Machine

/-- Settles O20: the four data lines are outputs, and the list is written out. -/
theorem driveNibbleResetsThenSets : Obligations.DriveNibbleResetsThenSets := by
  intro n s h4 h5 h6 h7
  have hout : ∀ r ∈ [Role.d4, .d5, .d6, .d7], getLine s.dir r = .output := by
    simp only [List.forall_mem_cons, List.not_mem_nil, false_imp_iff, implies_true, and_true]
    exact ⟨h4, h5, h6, h7⟩
  exact exec_driveNibble n hout

/-- Settles O22: each row is the whole SEND of its word, and a whole SEND on outputs completes. -/
theorem wordRowsAreSends : Obligations.WordRowsAreSends := by
  intro s hs c p hp
  have hrow : exec p.1 s = sendWhole p.2.1 p.2.2 s := by
    revert p
    simp only [List.forall_mem_cons, List.not_mem_nil, false_imp_iff, implies_true, and_true]
    exact ⟨rfl, rfl, rfl, rfl, rfl, rfl, rfl, rfl, rfl, rfl, rfl⟩
  obtain ⟨n, hn⟩ := sendWhole_outputs p.2.1 p.2.2 hs
  exact ⟨_, hrow.trans hn, hn, rfl⟩

/-- FRAME leaves RS at the mode, E low and the nibble on the data lines (R62). -/
theorem levelsAfter_frameEvents (l : Lines Level) (m : Bool) (n : Nibble) :
    levelsAfter l (frameEvents m n) = ⟨levelOfBool m, .low, levelOfBool (n.getLsbD 0), levelOfBool (n.getLsbD 1),
      levelOfBool (n.getLsbD 2), levelOfBool (n.getLsbD 3)⟩ := by
  rw [frameEvents, levelsAfter_append, levelsAfter_append, levelsAfter_toggle, levelsAfter_nibble]
  rfl

/-- FRAME is one strobe, with its own frame, from any levels (R62, R54). -/
theorem strobesFrom_frameEvents (l : Lines Level) (m : Bool) (n : Nibble) :
    strobesFrom l (frameEvents m n) = some [(m, n)] := by
  have h := strobesFrom_nibble_toggle (l := levelsStep l (.set .rs m)) (m := m) rfl n []
  rw [frameEvents, List.append_assoc, List.singleton_append, strobesFrom_step _ rfl]
  rw [List.append_nil] at h
  exact h

/-- FRAME binds no line. -/
theorem cfg_not_mem_frameEvents (m : Bool) (n : Nibble) (r : Role) : Event.cfg r ∉ frameEvents m n := by
  simp [frameEvents, cfg_not_mem_nibbleEvents, cfg_not_mem_toggleEvents]

/-- Settles O23: the frame's list of SETs and WAITs runs whole on outputs, and it is strobed once. -/
theorem frameIsStrobedOnce : Obligations.FrameIsStrobedOnce := by
  intro m n s hs
  obtain ⟨k, hk⟩ := runPlan_sets_and_waits (s := s) (cfg_not_mem_frameEvents m n) fun r b _ => by
    rw [show s.dir = _ from hs, getLine_allLines]
  rw [levelsAfter_frameEvents] at hk
  exact ⟨_, hk, rfl, fun l => strobesFrom_frameEvents l m n⟩

end Sys2Proof.Machine
end

/-! ## The registers of a running list (10_state.md) -/

section

namespace Sys2Proof.Machine

/-- What neither an event nor any transfer of a list changes, the list does not change. -/
theorem runPlan_keeps {α : Type} {π : State → α} (hperform : ∀ {e s t}, perform e s = .next t → π t = π s)
    {ms : List Micro} (hpre : ∀ m ∈ ms, ∀ x ∈ m.pre, ∀ s : State, π (s.transfer x) = π s) {s t : State}
    (h : runPlan ms s = .next t) : π t = π s := by
  have htransfers : ∀ (ts : List Transfer) (s : State), (∀ x ∈ ts, ∀ s : State, π (s.transfer x) = π s) →
      π (s.transfers ts) = π s := by
    intro ts
    induction ts with
    | nil => exact fun s _ => rfl
    | cons x rest ih =>
      intro s hx
      obtain ⟨hx, hrest⟩ := List.forall_mem_cons.1 hx
      exact (ih (s.transfer x) hrest).trans (hx s)
  induction ms generalizing s with
  | nil =>
    cases h
    rfl
  | cons m rest ih =>
    obtain ⟨u, hu, ht⟩ := andThen_eq_next.1 h
    obtain ⟨hm, hrest⟩ := List.forall_mem_cons.1 hpre
    calc π t = π u := ih hrest ht
      _ = π (s.transfers m.pre) := hperform hu
      _ = π s := htransfers m.pre s hm

/-- LINE changes only where a WRITE_LINE loads it. -/
theorem runPlan_line {ms : List Micro} (hpre : ∀ m ∈ ms, ∀ l, Transfer.loadLine l ∉ m.pre) {s t : State}
    (h : runPlan ms s = .next t) : t.line = s.line := by
  refine runPlan_keeps (π := State.line) (fun hp => by rw [perform_next_rest hp]) (fun m hm x hx s => ?_) h
  cases x with
  | loadLine l => exact absurd hx (hpre m hm l)
  | diag text => exact State.diag_line s text
  | loadSend _ _ | loadTl _ | dropSend => rfl

/-- TL changes only where a WRITE_LINE loads it. -/
theorem runPlan_tl {ms : List Micro} (hpre : ∀ m ∈ ms, ∀ v, Transfer.loadTl v ∉ m.pre) {s t : State}
    (h : runPlan ms s = .next t) : t.tl = s.tl := by
  refine runPlan_keeps (π := State.tl) (fun hp => by rw [perform_next_rest hp]) (fun m hm x hx s => ?_) h
  cases x with
  | loadTl v => exact absurd hx (hpre m hm v)
  | diag text => exact State.diag_tl s text
  | loadSend _ _ | loadLine _ | dropSend => rfl

/-- The transfers of a list are those put before its first event and its own. -/
theorem mem_pre_withPre {ts : List Transfer} {ms : List Micro} {m : Micro} {x : Transfer} (hm : m ∈ withPre ts ms)
    (hx : x ∈ m.pre) : x ∈ ts ∨ ∃ m' ∈ ms, x ∈ m'.pre := by
  cases ms with
  | nil => cases hm
  | cons m' rest =>
    obtain rfl | hm := List.mem_cons.1 hm
    · exact (List.mem_append.1 hx).imp_right fun hx => ⟨m', List.mem_cons_self, hx⟩
    · exact .inr ⟨m, List.mem_cons_of_mem _ hm, hx⟩

/-- A SEND makes no transfer but the load of its operands (R22). -/
theorem eq_loadSend_of_mem_pre {v : Byte} {b : Bool} {m : Micro} {x : Transfer} (hm : m ∈ sendPlan v b)
    (hx : x ∈ m.pre) : x = .loadSend v b := by
  obtain hx | ⟨m', hm', hx⟩ := mem_pre_withPre hm hx
  · exact List.mem_singleton.1 hx
  · obtain ⟨e, -, rfl⟩ := List.mem_map.1 hm'
    cases hx

/-- INITIALIZE makes no transfer but those of VALUE and MODE. -/
theorem send_transfer_of_mem_pre_initializePlan {m : Micro} {x : Transfer} (hm : m ∈ initializePlan)
    (hx : x ∈ m.pre) : (∃ v b, x = .loadSend v b) ∨ x = .dropSend := by
  obtain hm | hm := List.mem_append.1 hm
  · obtain ⟨v, -, hm⟩ := List.mem_flatMap.1 hm
    exact .inl ⟨v, modeCmd, eq_loadSend_of_mem_pre hm hx⟩
  · cases List.mem_singleton.1 hm
    exact .inr (List.mem_singleton.1 hx)

/-! ### The texts given to the diagnostic channel -/

/-- The text that a transfer gives to the diagnostic channel (R102). -/
def transferTexts (x : Transfer) : List (List Byte) :=
  match x with
  | .diag text => [text]
  | .loadSend _ _ | .loadLine _ | .loadTl _ | .dropSend => []

/-- The texts that a list gives to the diagnostic channel, in order (R102). -/
def planTexts (ms : List Micro) : List (List Byte) := ms.flatMap fun m => m.pre.flatMap transferTexts

theorem diagEntries_append (p : Platform) (a b : List (List Byte)) :
    diagEntries p (a ++ b) = diagEntries p a ++ diagEntries p b := by
  unfold diagEntries
  split <;> rfl

theorem transfer_diagTrace (s : State) (x : Transfer) :
    (s.transfer x).diagTrace = s.diagTrace ++ diagEntries s.plat (transferTexts x) := by
  have hnone : s.diagTrace = s.diagTrace ++ diagEntries s.plat [] := by simp [diagEntries]
  cases x with
  | diag text =>
    simp only [State.transfer, State.diag, diagEntries, transferTexts]
    split
    · rfl
    · exact (List.append_nil _).symm
  | loadSend _ _ | loadLine _ | loadTl _ | dropSend => exact hnone

theorem transfers_diagTrace (s : State) (ts : List Transfer) :
    (s.transfers ts).diagTrace = s.diagTrace ++ diagEntries s.plat (ts.flatMap transferTexts) := by
  induction ts generalizing s with
  | nil => simp [State.transfers, diagEntries]
  | cons x rest ih =>
    have h := ih (s.transfer x)
    rw [transfer_diagTrace, State.transfer_plat, List.append_assoc, ← diagEntries_append] at h
    exact h

/-- A list that runs gives its texts to an enabled diagnostic channel, and nothing else (R102). -/
theorem runPlan_diagTrace {ms : List Micro} {s t : State} (h : runPlan ms s = .next t) :
    t.diagTrace = s.diagTrace ++ diagEntries s.plat (planTexts ms) := by
  induction ms generalizing s with
  | nil =>
    cases h
    simp [planTexts, diagEntries]
  | cons m rest ih =>
    obtain ⟨u, hu, ht⟩ := andThen_eq_next.1 h
    have hdiag : u.diagTrace = (s.transfers m.pre).diagTrace := by rw [perform_next_rest hu]
    rw [ih ht, hdiag, transfers_diagTrace, (runMicro_next hu).plat, List.append_assoc, ← diagEntries_append]
    rfl

@[simp] theorem planTexts_append (a b : List Micro) : planTexts (a ++ b) = planTexts a ++ planTexts b :=
  List.flatMap_append

/-- A SEND gives no text. -/
@[simp] theorem planTexts_sendPlan (v : Byte) (b : Bool) : planTexts (sendPlan v b) = [] := by
  refine List.flatMap_eq_nil_iff.2 fun m hm => List.flatMap_eq_nil_iff.2 fun x hx => ?_
  rw [eq_loadSend_of_mem_pre hm hx]
  rfl

/-- SENDs in a row give no text. -/
@[simp] theorem planTexts_flatMap_sendPlan (cs : List Byte) (b : Bool) :
    planTexts (cs.flatMap fun c => sendPlan c b) = [] := by
  induction cs with
  | nil => rfl
  | cons c rest ih => rw [List.flatMap_cons, planTexts_append, planTexts_sendPlan, ih]; rfl

/-- Transfers before a list that is not empty give their texts first. -/
theorem planTexts_withPre (ts : List Transfer) {ms : List Micro} (h : ms ≠ []) :
    planTexts (withPre ts ms) = ts.flatMap transferTexts ++ planTexts ms := by
  cases ms with
  | nil => exact absurd rfl h
  | cons m rest => simp [planTexts, withPre]

theorem sendPlan_ne_nil (v : Byte) (b : Bool) : sendPlan v b ≠ [] := by
  simp [sendPlan, sendEvents, plain, withPre]

/-- INITIALIZE gives no text. -/
@[simp] theorem planTexts_initializePlan : planTexts initializePlan = [] := by
  rw [initializePlan, planTexts_append, planTexts_flatMap_sendPlan]
  rfl

/-- The 16 codes of a line are not none. -/
theorem flatMap_normText_ne_nil (text : List Byte) :
    ((normText text).toList.flatMap fun c => sendPlan c modeChr) ≠ [] := by
  intro h
  have hmem : (normText text)[0] ∈ (normText text).toList := by simp
  exact sendPlan_ne_nil _ _ (List.flatMap_eq_nil_iff.1 h _ hmem)

/-- WRITE_LINE gives its text, as received (R102). -/
@[simp] theorem planTexts_linePlan (text : List Byte) (line base : Byte) :
    planTexts (linePlan text line base) = [text] := by
  rw [linePlan, planTexts_append, planTexts_withPre _ (sendPlan_ne_nil _ _), planTexts_sendPlan,
    planTexts_withPre _ (flatMap_normText_ne_nil text), planTexts_flatMap_sendPlan]
  rfl

end Sys2Proof.Machine
end

/-! ## INITIALIZE and WRITE_LINE (42_sequencer.md) -/

section

namespace Sys2Proof.Machine

theorem cfg_not_mem_initializePlan (r : Role) : Event.cfg r ∉ planEvents initializePlan := by
  simp [planEvents_initializePlan, cfg_not_mem_sendEvents]

theorem cfg_not_mem_linePlan (text : List Byte) (line base : Byte) (r : Role) :
    Event.cfg r ∉ planEvents (linePlan text line base) := by
  simp [planEvents_linePlan, cfg_not_mem_sendEvents]

/-- SENDs in a row leave the lines as the last of them leaves them, whatever the levels before it (R86). -/
theorem levelsAfter_flatMap_sendEvents (l : Lines Level) {cs : List Byte} (m : Bool) (h : cs ≠ []) :
    levelsAfter l (cs.flatMap fun c => sendEvents c m) = levelsAfter l (sendEvents (cs.getLast h) m) := by
  conv_lhs => rw [← List.dropLast_append_getLast h, List.flatMap_append, List.flatMap_singleton, levelsAfter_append]
  rw [levelsAfter_sendEvents, levelsAfter_sendEvents]

/-- INITIALIZE leaves RS and E low and D7..D4 = 0001, whatever the levels before it (R96). -/
theorem levelsAfter_initializePlan (l : Lines Level) :
    levelsAfter l (planEvents initializePlan) = ⟨.low, .low, .high, .low, .low, .low⟩ := by
  rw [planEvents_initializePlan, levelsAfter_append,
    levelsAfter_flatMap_sendEvents _ _ (show initSeq ≠ [] by decide), levelsAfter_sendEvents]
  decide

/-- A line write leaves RS high, E low and the low nibble of its last code on the data lines (R97). -/
theorem levelsAfter_linePlan (l : Lines Level) (text : List Byte) (line base : Byte) :
    levelsAfter l (planEvents (linePlan text line base)) =
      ⟨.high, .low, levelOfBool ((normText text)[15].getLsbD 0), levelOfBool ((normText text)[15].getLsbD 1),
        levelOfBool ((normText text)[15].getLsbD 2), levelOfBool ((normText text)[15].getLsbD 3)⟩ := by
  have hne : (normText text).toList ≠ [] := fun h => by
    have := congrArg List.length h
    simp at this
  have hlast : (normText text).toList.getLast hne = (normText text)[15] := by
    simp [List.getLast_eq_getElem]
  rw [planEvents_linePlan, levelsAfter_append, levelsAfter_flatMap_sendEvents _ _ hne, levelsAfter_sendEvents, hlast]
  rfl

/-- A list without CFG on outputs runs whole: its events, and no line bound. -/
theorem runPlan_outputs_ran {ms : List Micro} {s : State} (h : AllOutputs s)
    (hc : ∀ r, Event.cfg r ∉ planEvents ms) :
    ∃ t, runPlan ms s = .next t ∧ Ran s t (planEvents ms) ∧ t.dir = s.dir := by
  obtain ⟨t, ht⟩ := runPlan_outputs h hc
  have hran := runPlan_next ht
  exact ⟨t, ht, hran, hran.dir.trans (dirsAfter_no_cfg _ hc)⟩

/-- Settles O25: the list runs whole on outputs; only VALUE, MODE, TIMER and the lines move with it. -/
theorem initializeSendsTheSixBytes : Obligations.InitializeSendsTheSixBytes := by
  intro s hs
  obtain ⟨t, ht, hran, hdir⟩ := runPlan_outputs_ran hs cfg_not_mem_initializePlan
  have hline : t.line = s.line := runPlan_line (fun m hm l hl => by
    obtain ⟨_, _, h⟩ | h := send_transfer_of_mem_pre_initializePlan hm hl <;> cases h) ht
  have htl : t.tl = s.tl := runPlan_tl (fun m hm v hv => by
    obtain ⟨_, _, h⟩ | h := send_transfer_of_mem_pre_initializePlan hm hv <;> cases h) ht
  have hdiag : t.diagTrace = s.diagTrace := by
    rw [runPlan_diagTrace ht, planTexts_initializePlan]
    simp [diagEntries]
  refine ⟨t, ht, ?_⟩
  have hlevel := hran.level
  have htrace := hran.pinTrace
  rw [levelsAfter_initializePlan] at hlevel
  rw [planEvents_initializePlan] at htrace
  rw [hran.rest, hlevel, htrace, hdir, hline, htl, hdiag]
  rfl

/-- A line number with its base, as the table of R65 gives it. -/
theorem lineBase_eq_some {line base : Byte} (h : line = 1#8 ∧ base = 0x80#8 ∨ line = 2#8 ∧ base = 0xC0#8) :
    lineBase line = some base := by
  obtain ⟨rfl, rfl⟩ | ⟨rfl, rfl⟩ := h <;> rfl

/-- Settles O26: the line's list runs whole on outputs, and the operands are dropped after it. -/
theorem writeLineSendsSeventeenBytes : Obligations.WriteLineSendsSeventeenBytes := by
  intro text line base s hs hbase
  obtain ⟨t, ht, hran, hdir⟩ := runPlan_outputs_ran hs (cfg_not_mem_linePlan text line base)
  have hexec : exec (.writeLine text line) s = .next t.dropOperands := by
    simp only [exec, execWriteLine, writeLinePlan, lineBase_eq_some hbase, Option.map_some, ht, andThen_next_left]
  refine ⟨_, hexec, ?_⟩
  have hlevel := hran.level
  have htrace := hran.pinTrace
  rw [levelsAfter_linePlan] at hlevel
  rw [planEvents_linePlan] at htrace
  rw [hran.rest, hlevel, htrace, hdir, runPlan_diagTrace ht, planTexts_linePlan]
  rfl

end Sys2Proof.Machine
end

/-! ## Accepting, refusing, responding (42_sequencer.md, 60_exceptions.md) -/

section

namespace Sys2Proof.Machine

/-! ### The resolution of six identifiers -/

/-- Six identifiers resolve together exactly when each resolves and no two roles get the same pin (R101, D14). -/
theorem resolveAll_eq_some_iff {p : Platform} {ids : Lines PinId} {h : Lines Handle} :
    resolveAll p ids = some h ↔
      (∀ r, p.resolve (getLine ids r) = some (getLine h r)) ∧ ∀ r q, getLine h r = getLine h q → r = q := by
  have hnodup : [h.rs, h.e, h.d4, h.d5, h.d6, h.d7].Nodup ↔ ∀ r q, getLine h r = getLine h q → r = q := by
    constructor
    · intro hn r q heq
      have hmem : ∀ r, r ∈ allRoles := fun r => by cases r <;> decide
      exact List.inj_on_of_nodup_map (l := allRoles) (f := getLine h) hn (hmem r) (hmem q) heq
    · intro hinj
      exact List.Nodup.map (f := getLine h) (fun r q => hinj r q) (show allRoles.Nodup by decide)
  rw [← hnodup]
  constructor
  · intro hr
    simp only [resolveAll, Option.bind_eq_bind, Option.bind_eq_some_iff, Option.ite_none_right_eq_some] at hr
    obtain ⟨rs, hrs, e, he, d4, h4, d5, h5, d6, h6, d7, h7, hn, heq⟩ := hr
    cases heq
    refine ⟨fun r => ?_, hn⟩
    cases r <;> assumption
  · rintro ⟨hr, hn⟩
    have hrs := hr .rs
    have he := hr .e
    have h4 := hr .d4
    have h5 := hr .d5
    have h6 := hr .d6
    have h7 := hr .d7
    simp only [getLine] at hrs he h4 h5 h6 h7
    simp only [resolveAll, Option.bind_eq_bind, hrs, he, h4, h5, h6, h7, Option.bind_some, if_pos hn]

/-! ### Accepted requests -/

/-- Settles O28: an idle READY block accepts, and CLEAR starts its one SEND. -/
theorem clearIsAccepted : Obligations.ClearIsAccepted := by
  refine ⟨fun s ⟨hc, hl⟩ => ?_, planEvents_clearPlan⟩
  show execClear s = _
  exact accept_idle _ hc hl

/-- An idle READY block runs SHOW_LINE as far as the line number lets it (R99). -/
theorem execShowLine_idle {text : List Byte} {line : Byte} {s : State} (h : IdleReady s) :
    execShowLine text line s = match writeLinePlan text line with
      | none => .next (s.post .invalidLineNumber)
      | some p => .next (s.start (.showLine text line) p) := by
  rw [execShowLine, accept_idle _ h.1 h.2]
  cases writeLinePlan text line with
  | none => exact raise_idle h.1
  | some p => rfl

/-- Settles O27: the line number has no base, so both rows raise the error and do no more. -/
theorem badLineNumberSendsNothing : Obligations.BadLineNumberSendsNothing := by
  intro text line s h1 h2 hc
  have hplan : writeLinePlan text line = none := by
    rw [writeLinePlan, lineBase_eq_none h1 h2, Option.map_none]
  constructor
  · simp only [exec, execWriteLine, hplan]
    exact raise_idle hc
  · intro hl
    simp only [exec, execShowLine_idle ⟨hc, hl⟩, hplan]
    rfl

/-- Settles O29: the line number has its base, and SHOW_LINE starts the list of WRITE_LINE. -/
theorem showLineIsAccepted : Obligations.ShowLineIsAccepted := by
  refine ⟨fun text line base s hs hbase => ?_, planEvents_linePlan⟩
  have hplan : writeLinePlan text line = some (linePlan text line base) := by
    rw [writeLinePlan, lineBase_eq_some hbase, Option.map_some]
  simp only [exec, execShowLine_idle hs, hplan]
  rfl

/-- Settles O30: an idle READY block accepts, and SHOW starts the lists of its two lines. -/
theorem showIsAccepted : Obligations.ShowIsAccepted := by
  intro text s ⟨hc, hl⟩
  refine ⟨?_, planEvents_showPlan text⟩
  show execShowBoth text s = _
  exact accept_idle _ hc hl

/-- An idle UNCONSTRUCTED block runs CONSTRUCT as far as the identifiers let it (R101). -/
theorem execConstruct_idle {ids : Lines PinId} {s : State} (h : IdleUnconstructed s) :
    execConstruct ids s = match resolveAll s.plat ids with
      | none => .next (s.post .invalidPinID)
      | some b => .next ({ s with handle := boundLines b }.start (.construct ids) constructPlan) := by
  rw [execConstruct, accept_idle _ h.1 h.2]
  cases resolveAll s.plat ids with
  | none => exact raise_idle h.1
  | some b => rfl

/-- Settles O31: the six identifiers resolve together, so CONSTRUCT binds them and starts its list. -/
theorem constructBindsAndStarts : Obligations.ConstructBindsAndStarts := by
  refine ⟨fun ids h s hs hresolve hinj => ?_, planEvents_constructPlan⟩
  simp only [exec, execConstruct_idle hs, resolveAll_eq_some_iff.2 ⟨hresolve, hinj⟩]
  rfl

/-- Settles O32: neither such identifiers nor such pins resolve together, so CONSTRUCT raises the error. -/
theorem badPinSendsNothing : Obligations.BadPinSendsNothing := by
  intro ids s hs hbad
  have hnone : resolveAll s.plat ids = none := by
    refine Option.eq_none_iff_forall_ne_some.2 fun h hall => ?_
    obtain ⟨hresolve, hinj⟩ := resolveAll_eq_some_iff.1 hall
    obtain ⟨r, hr⟩ | ⟨r, q, hne, heq⟩ := hbad
    · cases hr.symm.trans (hresolve r)
    · rw [hresolve r, hresolve q, Option.some.injEq] at heq
      exact hne (hinj r q heq)
  simp only [exec, execConstruct_idle hs, hnone]
  rfl

/-! ### Refused requests -/

/-- A busy block refuses whatever it would accept idle (R95). -/
theorem accept_busy {need : Life} {s : State} (go : State → StepResult) (h : s.cur.isSome) :
    accept need s go = .refused .busy :=
  if_pos h

/-- The refusal of a request that needs this lifecycle and does not find it (R95). -/
def misfit (need : Life) : Refusal :=
  match need with
  | .ready => .needsReady
  | .unconstructed => .alreadyConstructed

/-- An idle block refuses what does not fit its lifecycle (R95). -/
theorem accept_misfit {need : Life} {s : State} (go : State → StepResult) (hc : s.cur = none) (hl : s.life ≠ need) :
    accept need s go = .refused (misfit need) := by
  have hidle : ¬ s.cur.isSome := by simp [hc]
  unfold accept
  rw [if_neg hidle, if_neg hl]
  rfl

/-- The lifecycle that a host request needs: CONSTRUCT an UNCONSTRUCTED block, the others a READY one (R95). -/
def lifeNeeded (i : Instr) : Life :=
  match i with
  | .construct _ => .unconstructed
  | _ => .ready

/-- A host request is what `accept` lets through, and what it lets through refuses nothing (R95). -/
theorem exec_hostOp_eq_accept {i : Instr} (s : State) (hi : IsHostOp i) :
    ∃ go, exec i s = accept (lifeNeeded i) s go ∧ (s.cur = none → ∃ t, go s = .next t) := by
  cases i with
  | construct ids =>
    show ∃ go, execConstruct ids s = accept .unconstructed s go ∧ _
    refine ⟨_, rfl, fun hc => ?_⟩
    cases resolveAll s.plat ids with
    | none => exact ⟨_, raise_idle hc⟩
    | some b => exact ⟨_, rfl⟩
  | showLine text line =>
    show ∃ go, execShowLine text line s = accept .ready s go ∧ _
    refine ⟨_, rfl, fun hc => ?_⟩
    cases writeLinePlan text line with
    | none => exact ⟨_, raise_idle hc⟩
    | some p => exact ⟨_, rfl⟩
  | clear =>
    show ∃ go, execClear s = accept .ready s go ∧ _
    exact ⟨_, rfl, fun _ => ⟨_, rfl⟩⟩
  | showBoth text =>
    show ∃ go, execShowBoth text s = accept .ready s go ∧ _
    exact ⟨_, rfl, fun _ => ⟨_, rfl⟩⟩
  | _ => cases hi

/-- A busy block refuses every host request (R95). -/
theorem exec_hostOp_busy {i : Instr} {s : State} (hi : IsHostOp i) (h : s.cur.isSome) :
    exec i s = .refused .busy := by
  obtain ⟨go, hx, -⟩ := exec_hostOp_eq_accept s hi
  rw [hx, accept_busy go h]

/-- An idle block refuses every host request that does not fit its lifecycle (R95). -/
theorem exec_hostOp_misfit {i : Instr} {s : State} (hi : IsHostOp i) (hc : s.cur = none)
    (hl : s.life ≠ lifeNeeded i) : exec i s = .refused (misfit (lifeNeeded i)) := by
  obtain ⟨go, hx, -⟩ := exec_hostOp_eq_accept s hi
  rw [hx, accept_misfit go hc hl]

/-- What a host request can be refused for: the block is busy, or the lifecycle does not fit (R95, R125). -/
theorem exec_hostOp_refused {i : Instr} {s : State} {x : Refusal} (hi : IsHostOp i) (h : exec i s = .refused x) :
    (x = .busy ∧ s.cur.isSome) ∨ (s.cur = none ∧ x = misfit (lifeNeeded i)) := by
  by_cases hc : s.cur.isSome
  · cases (exec_hostOp_busy hi hc).symm.trans h
    exact .inl ⟨rfl, hc⟩
  · have hc := Option.not_isSome_iff_eq_none.1 hc
    by_cases hl : s.life = lifeNeeded i
    · obtain ⟨go, hx, hgo⟩ := exec_hostOp_eq_accept s hi
      obtain ⟨t, ht⟩ := hgo hc
      cases (hx.trans ((accept_idle go hc hl).trans ht)).symm.trans h
    · cases (exec_hostOp_misfit hi hc hl).symm.trans h
      exact .inr ⟨hc, rfl⟩

/-- No other row needs an UNCONSTRUCTED block. -/
theorem lifeNeeded_of_ne_construct {i : Instr} (h : ∀ ids, i ≠ .construct ids) : lifeNeeded i = .ready := by
  cases i with
  | construct ids => exact absurd rfl (h ids)
  | _ => rfl

/-- An event stops for its line alone: no output, or not bound (log 10). -/
theorem perform_refused {e : Event} {s : State} {x : Refusal} (h : perform e s = .refused x) :
    x = .lineNotOutput ∨ x = .lineNotBound := by
  cases e with
  | set r b =>
    simp only [perform] at h
    split at h <;> cases h
    exact .inl rfl
  | wait d => cases h
  | cfg r =>
    simp only [perform] at h
    split at h <;> cases h
    exact .inr rfl

/-- SET stops on a line that is no output (log 10). -/
theorem perform_set_refused {r : Role} {s : State} (b : Bool) (h : getLine s.dir r ≠ .output) :
    perform (.set r b) s = .refused .lineNotOutput :=
  if_neg h

/-- CFG stops on a line that is not bound (log 10). -/
theorem perform_cfg_refused {r : Role} {s : State} (h : getLine s.handle r = none) :
    perform (.cfg r) s = .refused .lineNotBound :=
  if_neg (by simp [h])

/-! ### Responses -/

/-- A busy block raises no error (R124). -/
theorem raise_busy {s : State} (e : Response) (h : s.cur.isSome) : raise e s = .refused .responseOutOfTurn :=
  if_pos h

/-- An idle block has no operation to end (R113). -/
theorem finish_idle {s : State} (h : s.cur = none) : finish s = .refused .responseOutOfTurn := by
  rw [finish, h]

/-- An operation does not end before its last event (R113). -/
theorem finish_early {s : State} {r : Running} (h : s.cur = some r) (hk : r.k < r.plan.length) :
    finish s = .refused .responseOutOfTurn := by
  rw [finish, h]
  exact if_pos hk

/-- Settles O37: each row meets the branch that stops. -/
theorem rowsStopWhereTheirRequirementFails : Obligations.RowsStopWhereTheirRequirementFails :=
  ⟨fun _ b _ h => perform_set_refused b h, fun _ _ h => perform_cfg_refused h, fun _ h => finish_idle h,
    fun _ _ hr hk => finish_early hr hk, fun _ h => ⟨raise_busy _ h, raise_busy _ h⟩⟩

/-- Settles O36: an idle block raises the error. -/
theorem errorRowsPostTheirResponse : Obligations.ErrorRowsPostTheirResponse := by
  intro s hc
  exact ⟨raise_idle hc, raise_idle hc⟩

/-- No operation but CONSTRUCT writes `life` (R20, R113). -/
theorem lifeAfter_of_ne_construct {op : Instr} (l : Life) (h : ∀ ids, op ≠ .construct ids) : lifeAfter op l = l := by
  cases op with
  | construct ids => exact absurd rfl (h ids)
  | _ => rfl

/-- Settles O35: the position is past the last event, so the operation ends. -/
theorem okEndsTheOperation : Obligations.OkEndsTheOperation := by
  intro s r hr hk
  refine ⟨_, finish_end hr hk.ge, rfl, ?_, fun h => lifeAfter_of_ne_construct s.life h⟩
  rintro ⟨ids, hop⟩
  show lifeAfter r.op s.life = .ready
  rw [hop]
  rfl

end Sys2Proof.Machine
end

/-! ## The step and the port (42_sequencer.md) -/

section

namespace Sys2Proof

/-- A text that is read fits its length field, and a part of one is none yet (R70). -/
theorem decodeText_eq {f : List Byte → Instr} {bs : List Byte} :
    (∃ text rest, TextFits text ∧ decodeText f bs = .instr (f text) rest) ∨
      decodeText f bs = .refused .incomplete := by
  unfold decodeText
  split
  · next hi lo rest =>
    split
    · refine .inl ⟨_, _, ?_, rfl⟩
      have := hi.isLt
      have := lo.isLt
      have := List.length_take_le (hi.toNat * 256 + lo.toNat) rest
      unfold TextFits
      omega
    · exact .inr rfl
  · exact .inr rfl

/-- Six identifiers, or no whole request yet (R71). -/
theorem decodePins_eq (bs : List Byte) :
    (∃ ids rest, decodePins bs = .instr (.construct ids) rest) ∨ decodePins bs = .refused .incomplete := by
  unfold decodePins
  split
  · exact .inl ⟨_, _, rfl⟩
  · exact .inr rfl

/-- A reserved header is refused as such, whatever follows it (R73). -/
theorem decodeHost_reserved {h arg : Byte} (rest : List Byte) (hres : Machine.ReservedHeader h arg) :
    ∃ why, why ≠ .incomplete ∧ decodeHost (h :: arg :: rest) = .refused why := by
  rw [decodeHost]
  split_ifs with hop hrsv htwo harg
  · exact ⟨.reservedOp, by decide, rfl⟩
  · exact ⟨.reservedRsv, by decide, rfl⟩
  · obtain h4 | hr | ⟨-, hne⟩ := hres
    · exact absurd h4 hop
    · exact absurd hr hrsv
    · exact absurd htwo hne
  · exact ⟨.reservedArg, by decide, rfl⟩
  all_goals
    obtain h4 | hr | ⟨ha, -⟩ := hres
    · exact absurd h4 hop
    · exact absurd hr hrsv
    · exact absurd ha harg

/-- A header that is not reserved starts a well-formed host operation, or no whole request yet (R60, R73). -/
theorem decodeHost_unreserved {h arg : Byte} (rest : List Byte) (hres : ¬ Machine.ReservedHeader h arg) :
    (∃ i rest', WellFormed i ∧ Machine.IsHostOp i ∧ decodeHost (h :: arg :: rest) = .instr i rest') ∨
      decodeHost (h :: arg :: rest) = .refused .incomplete := by
  have htext : ∀ f : List Byte → Instr, (∀ text, TextFits text → WellFormed (f text) ∧ Machine.IsHostOp (f text)) →
      (∃ i rest', WellFormed i ∧ Machine.IsHostOp i ∧ decodeText f rest = .instr i rest') ∨
        decodeText f rest = .refused .incomplete := by
    intro f hf
    obtain ⟨text, rest', hfit, htext⟩ | hinc := decodeText_eq (f := f) (bs := rest)
    · exact .inl ⟨f text, rest', (hf text hfit).1, (hf text hfit).2, htext⟩
    · exact .inr hinc
  rw [decodeHost]
  split_ifs with hop hrsv htwo harg hzero hone
  · exact absurd (.inl hop) hres
  · exact absurd (.inr (.inl hrsv)) hres
  · exact htext _ fun text hfit => ⟨hfit, rfl⟩
  · exact absurd (.inr (.inr ⟨harg, htwo⟩)) hres
  · obtain ⟨ids, rest', hpins⟩ | hinc := decodePins_eq rest
    · exact .inl ⟨.construct ids, rest', trivial, rfl, hpins⟩
    · exact .inr hinc
  · exact .inl ⟨.clear, rest, trivial, rfl, rfl⟩
  · exact htext _ fun text hfit => ⟨hfit, rfl⟩

/-- What is read at the host's port is a well-formed host operation (R60). -/
theorem decode_hostreq_instr {bs : List Byte} {i : Instr} {rest : List Byte}
    (h : decode .hostreq bs = .instr i rest) : WellFormed i ∧ Machine.IsHostOp i := by
  match bs with
  | [] | [_] => cases h
  | hd :: arg :: more =>
    by_cases hres : Machine.ReservedHeader hd arg
    · obtain ⟨why, -, hwhy⟩ := decodeHost_reserved more hres
      cases hwhy.symm.trans h
    · obtain ⟨i', rest', hwf, hop, hi⟩ | hinc := decodeHost_unreserved more hres
      · cases hi.symm.trans h
        exact ⟨hwf, hop⟩
      · cases hinc.symm.trans h

end Sys2Proof

namespace Sys2Proof.Machine

/-! ### What one step runs, case by case -/

/-- A presented row is what the step runs (log 3). -/
theorem step_of_unitCall {s : State} {i : Instr} (hr : s.rst = false) (hu : s.unitCall = some i) :
    step s = exec i { s with unitCall := none } := by
  simp [step, State.fetch, hr, hu]

/-- A whole request at the port is what the step runs, of an idle block and of a busy one (R95). -/
theorem step_of_request {s : State} {i : Instr} {rest : List Byte} (h : Quiet s)
    (hd : decode .hostreq s.hostIn = .instr i rest) : step s = exec i { s with hostIn := rest } := by
  rw [step_quiet h, hd]

/-- A reserved request ends the run under its name (R73; log 9). -/
theorem step_of_reserved {s : State} {why : Reject} (h : Quiet s) (hne : why ≠ .incomplete)
    (hd : decode .hostreq s.hostIn = .refused why) : step s = .refused (.reservedRequest why) := by
  rw [step_quiet h, hd]
  cases why with
  | incomplete => exact absurd rfl hne
  | _ => rfl

/-- An idle block waits while the host sends nothing (R136). -/
theorem step_waits {s : State} (h : Quiet s) (hn : NoRequest s) (hc : s.cur = none)
    (hp : s.hostIn ≠ [] ∨ s.program = []) : step s = .next s := by
  rw [step_quiet h, show decode .hostreq s.hostIn = _ from hn]
  simp only [State.proceed, hc]
  cases hin : s.hostIn with
  | cons b bs => rfl
  | nil =>
    rw [hp.resolve_left (absurd hin)]

/-- The host of an idle block with an empty port sends its next request (R115; log 24). -/
theorem step_sends {s : State} {q : List Byte} {later : List (List Byte)} (h : Quiet s) (hc : s.cur = none)
    (hin : s.hostIn = []) (hp : s.program = q :: later) :
    step s = .next { s with hostIn := q, program := later } := by
  rw [step_quiet h, hin]
  simp [State.proceed, hc, hin, hp, decode, decodeHost]

/-- Everything a step without reset and presented row can be refused for: a reserved request, a request that its
row refuses, an event that its line stops (R73, R95; log 9, log 10). -/
theorem step_refused {s : State} {x : Refusal} (hq : Quiet s) (h : step s = .refused x) :
    (∃ why, why ≠ .incomplete ∧ decode .hostreq s.hostIn = .refused why ∧ x = .reservedRequest why) ∨
      (∃ i rest, decode .hostreq s.hostIn = .instr i rest ∧ exec i { s with hostIn := rest } = .refused x) ∨
        ∃ r m, s.cur = some r ∧ r.plan[r.k]? = some m ∧ perform m.event (s.advance r m) = .refused x := by
  cases hd : decode .hostreq s.hostIn with
  | instr i rest => exact .inr (.inl ⟨i, rest, rfl, (step_of_request hq hd).symm.trans h⟩)
  | refused why =>
    by_cases hw : why = .incomplete
    · have hn : NoRequest s := by rw [NoRequest, hd, hw]
      obtain hc | ⟨r, hc⟩ := Option.eq_none_or_eq_some s.cur
      · cases hin : s.hostIn with
        | cons b bs => cases (step_waits hq hn hc (.inl (by simp [hin]))).symm.trans h
        | nil =>
          cases hp : s.program with
          | nil => cases (step_waits hq hn hc (.inr hp)).symm.trans h
          | cons q later => cases (step_sends hq hc hin hp).symm.trans h
      · obtain hm | ⟨m, hm⟩ := Option.eq_none_or_eq_some r.plan[r.k]?
        · have hk : r.plan.length ≤ r.k := by simpa using hm
          cases (finish_end hc hk).symm.trans ((step_end hq hn hc hk).symm.trans h)
        · exact .inr (.inr ⟨r, m, hc, hm, (step_busy hq hn hc hm).symm.trans h⟩)
    · cases (step_of_reserved hq hw hd).symm.trans h
      exact .inl ⟨why, hw, rfl, rfl⟩

/-- Settles O33: a host request passes `accept` first; and the step of a busy block runs what is at the port. -/
theorem misplacedRequestsAreRefused : Obligations.MisplacedRequestsAreRefused := by
  refine ⟨fun s i hi => ⟨exec_hostOp_busy hi, ?_, ?_⟩, fun s i rest hq hc hd => ?_⟩
  · intro ⟨hc, hl⟩ hne
    have hneed := lifeNeeded_of_ne_construct hne
    exact (exec_hostOp_misfit hi hc (by simp [hl, hneed])).trans (by rw [hneed]; rfl)
  · rintro ⟨hc, hl⟩ ⟨ids, rfl⟩
    exact exec_hostOp_misfit hi hc (by simp [hl, lifeNeeded])
  · exact (step_of_request hq hd).trans (exec_hostOp_busy (decode_hostreq_instr hd).2 hc)

/-- Settles O15: the decoder refuses a reserved header as such and no other, and no row refuses as reserved. -/
theorem reservedRequestsAreRefused : Obligations.ReservedRequestsAreRefused := by
  intro s h arg rest hq hin
  have hdecode : decode .hostreq s.hostIn = decodeHost (h :: arg :: rest) := by rw [hin]; rfl
  constructor
  · intro hres
    obtain ⟨why, hne, hwhy⟩ := decodeHost_reserved rest hres
    exact ⟨why, step_of_reserved hq hne (hdecode.trans hwhy)⟩
  · rintro ⟨why, hstep⟩
    by_contra hres
    obtain ⟨why', hne, hd, -⟩ | ⟨i, rest', hd, hx⟩ | ⟨r, m, -, -, hp⟩ := step_refused hq hstep
    · obtain ⟨i, rest', -, -, hi⟩ | hinc := decodeHost_unreserved rest hres
      · cases hi.symm.trans (hdecode.symm.trans hd)
      · cases hinc.symm.trans (hdecode.symm.trans hd)
        exact hne rfl
    · obtain ⟨hx, -⟩ | ⟨-, hx⟩ := exec_hostOp_refused (decode_hostreq_instr hd).2 hx
      · cases hx
      · cases hneed : lifeNeeded i <;> rw [hneed] at hx <;> cases hx
    · obtain hx | hx := perform_refused hp <;> cases hx

/-- Settles O40: the step looks at the port first. -/
theorem stepRunsTheDecodedRequest : Obligations.StepRunsTheDecodedRequest := by
  intro s i rest hq hd
  exact ⟨step_of_request hq hd, decode_hostreq_instr hd⟩

/-- Settles O41: the three cases of a step with no whole request and no running operation. -/
theorem stepWaitsOrRunsAPresentedRow : Obligations.StepWaitsOrRunsAPresentedRow :=
  ⟨fun _ hq hc hn hp => step_waits hq hn hc hp, fun _ _ _ hq hc hin hp => step_sends hq hc hin hp,
    fun _ _ hr hu => step_of_unitCall hr hu⟩

/-- Settles O42: the event at `k`, as its own row, or the row OK. -/
theorem stepPerformsTheEventAtK : Obligations.StepPerformsTheEventAtK := by
  intro s r hq hn hc
  refine ⟨fun m hm => ?_, fun hk => step_end hq hn hc hk⟩
  rw [exec_instrOfEvent]
  exact step_busy hq hn hc hm

/-- Settles O44: the step performs the event at `k`, and an event changes the lines and the trace alone. -/
theorem busyStepAddsExactlyOneEvent : Obligations.BusyStepAddsExactlyOneEvent := by
  intro s t r m hq hn hc hm h
  have hran := perform_next ((step_busy hq hn hc hm).symm.trans h)
  exact ⟨by simpa using hran.pinTrace, by simpa using hran.level, by simpa using hran.cur, by simpa using hran.resp,
    by simpa using hran.hostIn, by simpa using hran.program, by simpa using hran.handle, by simpa using hran.life⟩

end Sys2Proof.Machine
end

/-! ## The lifecycle and the output streams (10_state.md) -/

section

namespace Sys2Proof.Machine

/-- Everything an answered host request does: the block was idle, and the request raises an error, or it starts its
list, with the six handles of before or, for a CONSTRUCT, six new ones (R95, R98 to R101). -/
theorem exec_hostOp_next {i : Instr} {s t : State} (hi : IsHostOp i) (h : exec i s = .next t) :
    s.cur = none ∧ ((∃ e, t = s.post e) ∨ ∃ ms b, acceptedPlan s.plat i = some (s.life, ms) ∧
      t = { s with handle := b }.start i ms ∧ (s.life = .ready → b = s.handle) ∧
      (s.life = .unconstructed → ∃ h, b = boundLines h)) := by
  cases i with
  | construct ids =>
    obtain ⟨hc, hl, ⟨-, rfl⟩ | ⟨b, hb, rfl⟩⟩ := execConstruct_next h
    · exact ⟨hc, .inl ⟨_, rfl⟩⟩
    · exact ⟨hc, .inr ⟨_, _, by rw [acceptedPlan, hb, hl]; rfl, rfl, by simp [hl], fun _ => ⟨b, rfl⟩⟩⟩
  | clear =>
    obtain ⟨hc, hl, rfl⟩ := execClear_next h
    exact ⟨hc, .inr ⟨_, s.handle, by rw [acceptedPlan, hl], rfl, fun _ => rfl, by simp [hl]⟩⟩
  | showLine text line =>
    obtain ⟨hc, hl, ⟨-, rfl⟩ | ⟨p, hp, rfl⟩⟩ := execShowLine_next h
    · exact ⟨hc, .inl ⟨_, rfl⟩⟩
    · exact ⟨hc, .inr ⟨_, s.handle, by rw [acceptedPlan, hp, hl]; rfl, rfl, fun _ => rfl, by simp [hl]⟩⟩
  | showBoth text =>
    obtain ⟨hc, hl, rfl⟩ := execShowBoth_next h
    exact ⟨hc, .inr ⟨_, s.handle, by rw [acceptedPlan, hl], rfl, fun _ => rfl, by simp [hl]⟩⟩
  | _ => cases hi

/-- A row that changes the lifecycle is the end of an operation (R20). -/
theorem exec_changes_life {i : Instr} {s t : State} (h : exec i s = .next t) (hne : t.life ≠ s.life) :
    finish s = .next t := by
  by_cases hi : IsHostOp i
  · obtain ⟨-, ⟨e, rfl⟩ | ⟨ms, b, -, rfl, -⟩⟩ := exec_hostOp_next hi h <;> exact absurd rfl hne
  · by_cases hok : i = .ok
    · subst hok
      exact h
    · exact absurd (exec_sameControl hi hok h).life hne

/-- A step that changes the lifecycle, and is no reset, ends an operation. -/
theorem step_changes_life {s t : State} (hr : s.rst = false) (h : step s = .next t) (hne : t.life ≠ s.life) :
    ∃ u, finish u = .next t ∧ u.cur = s.cur ∧ u.life = s.life ∧ u.resp = s.resp := by
  obtain ⟨hr', -⟩ | ⟨-, ⟨i, -, hx⟩ | ⟨-, ⟨i, rest, -, hx⟩ | ⟨-, hbusy | hend | hidle⟩⟩⟩ := step_next h
  · exact absurd (hr.symm.trans hr') Bool.false_ne_true
  · exact ⟨_, exec_changes_life hx hne, rfl, rfl, rfl⟩
  · exact ⟨_, exec_changes_life hx hne, rfl, rfl, rfl⟩
  · obtain ⟨r, m, -, -, hp⟩ := hbusy
    exact absurd ((perform_next hp).life.trans (State.advance_life s r m)) hne
  · obtain ⟨r, -, -, hf⟩ := hend
    exact ⟨s, hf, rfl, rfl, rfl⟩
  · obtain ⟨-, rfl | ⟨q, later, -, -, rfl⟩⟩ := hidle <;> exact absurd rfl hne

/-- Settles O8: the step ends an operation, which writes the lifecycle only if it is a CONSTRUCT. -/
theorem lifeChangesOnlyAtConstructOk : Obligations.LifeChangesOnlyAtConstructOk := by
  intro s t hr h hne
  obtain ⟨u, hf, hcur, hlife, hresp⟩ := step_changes_life hr h hne
  obtain ⟨r, hc, hk, rfl⟩ := finish_next hf
  by_cases hop : ∃ ids, r.op = .construct ids
  · obtain ⟨ids, hop⟩ := hop
    refine ⟨?_, ?_, rfl, r, ids, hcur.symm.trans hc, hop, hk⟩
    · show lifeAfter r.op u.life = .ready
      rw [hop]
      rfl
    · show u.resp ++ [.ok] = _
      rw [hresp]
  · exact absurd ((lifeAfter_of_ne_construct u.life (not_exists.1 hop)).trans hlife) hne

/-- DIAGTRACE and RESP only grow, at the end, and RESP by at most one response (R27, R72). -/
structure Grows (s t : State) : Prop where
  diagTrace : ∃ ds, t.diagTrace = s.diagTrace ++ ds
  resp : t.resp = s.resp ∨ ∃ r, t.resp = s.resp ++ [r]

theorem Grows.of_same {s t : State} (hd : t.diagTrace = s.diagTrace) (hr : t.resp = s.resp) : Grows s t :=
  ⟨⟨[], by rw [hd, List.append_nil]⟩, .inl hr⟩

theorem post_grows (s : State) (e : Response) : Grows s (s.post e) :=
  ⟨⟨[], (List.append_nil _).symm⟩, .inr ⟨e, rfl⟩⟩

theorem raise_grows {e : Response} {s t : State} (h : raise e s = .next t) : Grows s t := by
  obtain ⟨-, rfl⟩ := raise_next h
  exact post_grows s e

theorem perform_grows {e : Event} {s t : State} (h : perform e s = .next t) : Grows s t :=
  .of_same (by rw [perform_next_rest h]) (perform_next h).resp

theorem runPlan_grows {ms : List Micro} {s t : State} (h : runPlan ms s = .next t) : Grows s t :=
  ⟨⟨_, runPlan_diagTrace h⟩, .inl (runPlan_next h).resp⟩

theorem sendWhole_grows {v : Byte} {m : Bool} {s t : State} (h : sendWhole v m s = .next t) : Grows s t := by
  obtain ⟨u, hu, ht⟩ := andThen_eq_next.1 h
  obtain ⟨hd, hr⟩ := runPlan_grows hu
  cases ht
  exact ⟨hd, hr⟩

theorem execWriteLine_grows {text : List Byte} {line : Byte} {s t : State} (h : execWriteLine text line s = .next t) :
    Grows s t := by
  unfold execWriteLine at h
  split at h
  · exact raise_grows h
  · obtain ⟨u, hu, ht⟩ := andThen_eq_next.1 h
    obtain ⟨hd, hr⟩ := runPlan_grows hu
    cases ht
    exact ⟨hd, hr⟩

theorem finish_grows {s t : State} (h : finish s = .next t) : Grows s t := by
  obtain ⟨r, -, -, rfl⟩ := finish_next h
  exact ⟨⟨[], (List.append_nil _).symm⟩, .inr ⟨.ok, rfl⟩⟩

/-- Whatever row runs, the two streams only grow. -/
theorem exec_grows {i : Instr} {s t : State} (h : exec i s = .next t) : Grows s t := by
  by_cases hi : IsHostOp i
  · obtain ⟨-, ⟨e, rfl⟩ | ⟨ms, b, -, rfl, -⟩⟩ := exec_hostOp_next hi h
    · exact post_grows s e
    · exact .of_same rfl rfl
  · cases i with
    | construct _ | clear | showLine _ _ | showBoth _ => exact absurd rfl hi
    | ok => exact finish_grows h
    | toggleE | driveNibble _ | initializeLcd | frame _ _ => exact runPlan_grows h
    | send _ _ | sendCmd _ | sendChr _ | chr _ | init0 | init1 | init2 | init3 | init4 | init5
    | addrL1 | addrL2 => exact sendWhole_grows h
    | writeLine _ _ => exact execWriteLine_grows h
    | set r b => exact perform_grows (e := .set r b) h
    | wait d => exact perform_grows (e := .wait d) h
    | cfg r => exact perform_grows (e := .cfg r) h
    | invalidPinID | invalidLineNumber => exact raise_grows h

/-- Taking the position of an operation gives the texts of its transfers (R102, R113). -/
theorem advance_diagTrace (s : State) (r : Running) (m : Micro) :
    (s.advance r m).diagTrace = s.diagTrace ++ diagEntries s.plat (m.pre.flatMap transferTexts) :=
  transfers_diagTrace _ m.pre

/-- A step that is no reset lets the two streams only grow. -/
theorem step_grows {s t : State} (hr : s.rst = false) (h : step s = .next t) : Grows s t := by
  obtain ⟨hr', -⟩ | ⟨-, ⟨i, -, hx⟩ | ⟨-, ⟨i, rest, -, hx⟩ | ⟨-, hbusy | hend | hidle⟩⟩⟩ := step_next h
  · exact absurd (hr.symm.trans hr') Bool.false_ne_true
  · obtain ⟨hd, hresp⟩ := exec_grows hx
    exact ⟨hd, hresp⟩
  · obtain ⟨hd, hresp⟩ := exec_grows hx
    exact ⟨hd, hresp⟩
  · obtain ⟨r, m, -, -, hp⟩ := hbusy
    have hd : t.diagTrace = (s.advance r m).diagTrace := by rw [perform_next_rest hp]
    exact ⟨⟨_, hd.trans (advance_diagTrace s r m)⟩, .inl ((perform_next hp).resp.trans (State.advance_resp s r m))⟩
  · obtain ⟨r, -, -, hf⟩ := hend
    exact finish_grows hf
  · obtain ⟨-, rfl | ⟨q, later, -, -, rfl⟩⟩ := hidle <;> exact .of_same rfl rfl

/-- Settles O10: the trace grows by the step's events, the other two streams row by row. -/
theorem outputStreamsOnlyGrow : Obligations.OutputStreamsOnlyGrow := by
  intro s t hr h
  obtain ⟨u, es, hm, htrace, -⟩ := step_moved hr h
  obtain ⟨hdiag, hresp⟩ := step_grows hr h
  exact ⟨⟨es, by rw [hm.pinTrace, htrace]⟩, hdiag, hresp⟩

end Sys2Proof.Machine
end

/-! ## The invariant of the block (10_state.md, 42_sequencer.md) -/

section

namespace Sys2Proof.Machine

/-! ### The lists of the operations of a READY block -/

/-- CONSTRUCT leaves RS and E low and D7..D4 = 0001, whatever the levels before it (R96, R101). -/
theorem levelsAfter_constructPlan (l : Lines Level) :
    levelsAfter l (planEvents constructPlan) = ⟨.low, .low, .high, .low, .low, .low⟩ := by
  rw [planEvents_constructPlan, levelsAfter_append, levelsAfter_initializePlan]

theorem cfg_mem_constructPlan (r : Role) : Event.cfg r ∈ planEvents constructPlan := by
  rw [planEvents_constructPlan]
  refine List.mem_append_left _ (List.mem_map_of_mem ?_)
  cases r <;> decide

/-- What an operation of a READY block performs: whole bytes, each Command byte one of the eight; no line is
configured, and E is low at the end (R64, R98 to R100). -/
structure ByteRun (es : List Event) : Prop where
  bytes : ∃ bs, Transmits es bs ∧ ∀ v, (false, v) ∈ bs → v ∈ commandBytes
  no_cfg : ∀ r, Event.cfg r ∉ es
  low : ∀ l, (levelsAfter l es).e = .low

theorem ByteRun.append {a b : List Event} (ha : ByteRun a) (hb : ByteRun b) : ByteRun (a ++ b) := by
  obtain ⟨bs, hbs, hbs'⟩ := ha.bytes
  obtain ⟨cs, hcs, hcs'⟩ := hb.bytes
  refine ⟨⟨bs ++ cs, hbs.append hcs, fun v hv => ?_⟩, fun r hr => ?_, fun l => ?_⟩
  · exact (List.mem_append.1 hv).elim (hbs' v) (hcs' v)
  · exact (List.mem_append.1 hr).elim (ha.no_cfg r) (hb.no_cfg r)
  · rw [levelsAfter_append]
    exact hb.low _

theorem byteRun_clearPlan : ByteRun (planEvents clearPlan) := by
  refine ⟨⟨_, transmits_clearPlan, fun v hv => ?_⟩, fun r => ?_, fun l => ?_⟩
  · cases List.mem_singleton.1 hv
    decide
  · rw [planEvents_clearPlan]
    exact cfg_not_mem_sendEvents _ _ r
  · rw [planEvents_clearPlan, levelsAfter_sendEvents]

theorem byteRun_linePlan (text : List Byte) (line : Byte) {base : Byte} (hbase : base ∈ commandBytes) :
    ByteRun (planEvents (linePlan text line base)) := by
  refine ⟨⟨_, transmits_linePlan text line base, fun v hv => ?_⟩, cfg_not_mem_linePlan text line base, fun l => ?_⟩
  · obtain h | h := List.mem_cons.1 hv
    · cases h
      exact hbase
    · simp at h
  · rw [levelsAfter_linePlan]

theorem lineBase_mem_commandBytes {line base : Byte} (h : lineBase line = some base) : base ∈ commandBytes := by
  unfold lineBase at h
  split_ifs at h
  · cases h
    decide
  · cases h
    decide

/-- The operations that a READY block accepts are such lists. -/
theorem byteRun_of_acceptedPlan {p : Platform} {i : Instr} {ms : List Micro}
    (h : acceptedPlan p i = some (.ready, ms)) : ByteRun (planEvents ms) := by
  cases i with
  | construct ids =>
    obtain ⟨_, -, hms⟩ := Option.map_eq_some_iff.1 h
    cases hms
  | clear =>
    cases h
    exact byteRun_clearPlan
  | showLine text line =>
    obtain ⟨_, hline, hms⟩ := Option.map_eq_some_iff.1 h
    obtain ⟨base, hbase, rfl⟩ := Option.map_eq_some_iff.1 hline
    cases hms
    exact byteRun_linePlan text line (lineBase_mem_commandBytes hbase)
  | showBoth text =>
    cases h
    rw [planEvents_showPlan]
    exact (byteRun_linePlan _ _ (by decide)).append (byteRun_linePlan _ _ (by decide))
  | _ => cases h

/-- The operation that an UNCONSTRUCTED block accepts is CONSTRUCT (R95). -/
theorem eq_construct_of_acceptedPlan {p : Platform} {i : Instr} {ms : List Micro}
    (h : acceptedPlan p i = some (.unconstructed, ms)) : (∃ ids, i = .construct ids) ∧ ms = constructPlan := by
  cases i with
  | construct ids =>
    obtain ⟨_, -, hms⟩ := Option.map_eq_some_iff.1 h
    cases hms
    exact ⟨⟨ids, rfl⟩, rfl⟩
  | showLine text line =>
    obtain ⟨_, -, hms⟩ := Option.map_eq_some_iff.1 h
    cases hms
  | _ => cases h

/-- Every operation ends in a READY block (R20, R113). -/
theorem lifeAfter_of_acceptedPlan {p : Platform} {i : Instr} {l : Life} {ms : List Micro}
    (h : acceptedPlan p i = some (l, ms)) : lifeAfter i l = .ready := by
  cases l with
  | unconstructed =>
    obtain ⟨⟨ids, rfl⟩, -⟩ := eq_construct_of_acceptedPlan h
    rfl
  | ready => cases i <;> rfl

/-! ### Whole traces -/

theorem traceWhole_nil : TraceWhole .unconstructed [] :=
  ⟨⟨[], rfl, by simp⟩, rfl, rfl⟩

/-- The trace of the construction alone is whole (R108). -/
theorem traceWhole_constructPlan : TraceWhole .ready (planEvents constructPlan) := by
  refine ⟨⟨initBytes, transmits_constructPlan.bytesOf_eq, fun v hv => ?_⟩, keepsRest_constructPlan,
    ⟨[], (List.append_nil _).symm, fun _ => List.not_mem_nil⟩, ?_⟩
  · obtain ⟨w, hw, heq⟩ := List.mem_map.1 hv
    cases heq
    exact List.mem_append_left _ hw
  · rw [levelsAfter_constructPlan]

/-- A whole trace and then a whole operation make a whole trace, of a READY block. -/
theorem TraceWhole.append_plan {p : Platform} {i : Instr} {l : Life} {ms : List Micro} {before : List Event}
    (h : TraceWhole l before) (hp : acceptedPlan p i = some (l, ms)) :
    TraceWhole .ready (before ++ planEvents ms) := by
  cases l with
  | unconstructed =>
    obtain ⟨-, -, rfl⟩ := h
    obtain ⟨-, rfl⟩ := eq_construct_of_acceptedPlan hp
    exact traceWhole_constructPlan
  | ready =>
    obtain ⟨⟨bs, hbs, hcmd⟩, hwave, ⟨more, rfl, hmore⟩, -⟩ := h
    obtain ⟨⟨cs, hcs, hcmd'⟩, hno, hlow⟩ := byteRun_of_acceptedPlan hp
    refine ⟨⟨bs ++ cs, bytesOf_append hbs hcs, fun v hv => ?_⟩, KeepsRest.append hwave (keepsRest_acceptedPlan hp),
      ⟨more ++ planEvents ms, List.append_assoc _ _ _, fun r hr => ?_⟩, ?_⟩
    · exact (List.mem_append.1 hv).elim (hcmd v) (hcmd' v)
    · exact (List.mem_append.1 hr).elim (hmore r) (hno r)
    · rw [levelsAfter_append]
      exact hlow _

/-- A line is configured before any SET of it, in the operation or before it (R101, R31 c). -/
theorem cfg_mem_before_set {p : Platform} {i : Instr} {l : Life} {ms : List Micro} {before a c : List Event}
    {r : Role} {b : Bool} (h : TraceWhole l before) (hp : acceptedPlan p i = some (l, ms))
    (hms : planEvents ms = a ++ .set r b :: c) : Event.cfg r ∈ before ++ a := by
  cases l with
  | unconstructed =>
    obtain ⟨-, rfl⟩ := eq_construct_of_acceptedPlan hp
    rw [planEvents_constructPlan] at hms
    have hcfgs : allRoles.map Event.cfg <+: a ++ .set r b :: c := ⟨_, hms⟩
    have hset : a ++ [.set r b] <+: a ++ .set r b :: c := ⟨c, by simp⟩
    have hmem : Event.cfg r ∈ allRoles.map Event.cfg := List.mem_map_of_mem (by cases r <;> decide)
    obtain hpre | hpre := List.prefix_or_prefix_of_prefix hcfgs hset
    · have := hpre.subset hmem
      simp only [List.mem_append, List.mem_singleton, reduceCtorEq, or_false] at this
      exact List.mem_append_right _ this
    · have := hpre.subset (List.mem_append_right a (List.mem_singleton_self _))
      simp at this
  | ready =>
    obtain ⟨-, -, ⟨more, rfl, -⟩, -⟩ := h
    exact List.mem_append_left _ (List.mem_append_left _ (cfg_mem_constructPlan r))

/-! ### The invariant, idle and busy -/

theorem Inv.idleOk {s : State} (h : Inv s) (hc : s.cur = none) : IdleOk s := by
  obtain ⟨-, -, hctl⟩ := h
  rw [hc] at hctl
  exact hctl

theorem Inv.busyOk {s : State} {r : Running} (h : Inv s) (hc : s.cur = some r) : BusyOk s r := by
  obtain ⟨-, -, hctl⟩ := h
  rw [hc] at hctl
  exact hctl

theorem Inv.of_idle {s : State} (hu : s.unitCall = none) (hl : LinesFollowTrace s) (hc : s.cur = none)
    (h : IdleOk s) : Inv s :=
  ⟨hu, hl, by rw [hc]; exact h⟩

theorem Inv.of_busy {s : State} {r : Running} (hu : s.unitCall = none) (hl : LinesFollowTrace s)
    (hc : s.cur = some r) (h : BusyOk s r) : Inv s :=
  ⟨hu, hl, by rw [hc]; exact h⟩

theorem IdleOk.bound {s : State} (h : IdleOk s) (hl : s.life = .ready) (r : Role) : (getLine s.handle r).isSome := by
  obtain ⟨-, hbound⟩ := h
  rw [hl] at hbound
  exact hbound r

theorem IdleOk.of_ready {s : State} (hl : s.life = .ready) (hw : TraceWhole .ready s.pinTrace)
    (hb : ∀ r, (getLine s.handle r).isSome) : IdleOk s := by
  rw [IdleOk, hl]
  exact ⟨hw, hb⟩

/-- The invariant holds wherever the lines are at reset, nothing was performed and nothing is bound. -/
theorem inv_applyReset (s : State) : Inv s.applyReset :=
  .of_idle rfl (linesFollowTrace_applyReset s) rfl ⟨traceWhole_nil, rfl⟩

/-- Settles O47: nothing is performed, bound or configured. -/
theorem invAtReset : Obligations.InvAtReset :=
  .of_idle rfl ⟨rfl, fun r => by simp [State.reset]⟩ rfl ⟨traceWhole_nil, rfl⟩

/-- An accepted request keeps the invariant: it posts an error, or it starts its list with all handles bound. -/
theorem Inv.after_hostOp {i : Instr} {s t : State} (hs : Inv s) (hi : IsHostOp i) (h : exec i s = .next t) : Inv t := by
  obtain ⟨hc, ⟨e, rfl⟩ | ⟨ms, b, hplan, rfl, hready, hfresh⟩⟩ := exec_hostOp_next hi h
  · exact hs
  · have hidle := hs.idleOk hc
    obtain ⟨hu, hlines, -⟩ := hs
    have hbound : ∀ q, (getLine b q).isSome := by
      intro q
      cases hl : s.life with
      | ready =>
        rw [hready hl]
        exact hidle.bound hl q
      | unconstructed =>
        obtain ⟨h, rfl⟩ := hfresh hl
        simp
    exact .of_busy hu hlines rfl ⟨hplan, Nat.zero_le _, hbound, s.pinTrace, hidle.1, by simp⟩

/-- An event of the running operation keeps the invariant: one more of its list is performed. -/
theorem Inv.after_perform {s t : State} {r : Running} {m : Micro} (hs : Inv s) (hc : s.cur = some r)
    (hm : r.plan[r.k]? = some m) (h : perform m.event (s.advance r m) = .next t) : Inv t := by
  obtain ⟨hplan, -, hbound, before, hwhole, htrace⟩ := hs.busyOk hc
  obtain ⟨hu, ⟨hlevel, hdir⟩, -⟩ := hs
  have hran := perform_next h
  have hk : r.k < r.plan.length := (List.getElem?_eq_some_iff.1 hm).1
  have hevent : (planEvents r.plan)[r.k]? = some m.event := by simp [planEvents, hm]
  refine .of_busy (r := { r with k := r.k + 1 }) (hran.unitCall.trans (by simpa using hu))
    (hran.moved.linesFollowTrace ⟨by simpa using hlevel, by simpa using hdir⟩) (hran.cur.trans (by simp))
    ⟨?_, hk, ?_, before, ?_, ?_⟩
  · rw [hran.plat, hran.life]
    simpa using hplan
  · rw [hran.handle]
    simpa using hbound
  · rw [hran.life]
    simpa using hwhole
  · rw [hran.pinTrace, State.advance_pinTrace, htrace, List.append_assoc, List.take_add_one, hevent]
    rfl

/-- The end of the running operation keeps the invariant: its whole list is performed, and the block is READY. -/
theorem Inv.after_finish {s t : State} (hs : Inv s) (h : finish s = .next t) : Inv t := by
  obtain ⟨r, hc, hk, rfl⟩ := finish_next h
  obtain ⟨hplan, -, hbound, before, hwhole, htrace⟩ := hs.busyOk hc
  obtain ⟨hu, hlines, -⟩ := hs
  have hall : (planEvents r.plan).take r.k = planEvents r.plan :=
    List.take_of_length_le (by simpa [planEvents] using hk)
  have hready : TraceWhole .ready s.pinTrace := by
    rw [htrace, hall]
    exact hwhole.append_plan hplan
  exact .of_idle hu hlines rfl (.of_ready (lifeAfter_of_acceptedPlan hplan) hready hbound)

/-- Settles O46: each thing that a step can be keeps the invariant; the port of log 3 is empty and stays so. -/
theorem invEveryStep : Obligations.InvEveryStep := by
  intro s t hs h
  have hu := hs.1
  obtain ⟨-, rfl⟩ | ⟨-, ⟨i, hi, -⟩ | ⟨-, ⟨i, rest, hd, hx⟩ | ⟨-, hbusy | hend | hidle⟩⟩⟩ := step_next h
  · exact inv_applyReset s
  · cases hu.symm.trans hi
  · exact Inv.after_hostOp (s := { s with hostIn := rest }) hs (decode_hostreq_instr hd).2 hx
  · obtain ⟨r, m, hc, hm, hp⟩ := hbusy
    exact hs.after_perform hc hm hp
  · obtain ⟨r, -, -, hf⟩ := hend
    exact hs.after_finish hf
  · obtain ⟨-, rfl | ⟨q, later, -, -, rfl⟩⟩ := hidle <;> exact hs

/-! ### What the invariant says -/

/-- The trace of a READY block is the construction's, and no line is configured after it. -/
theorem Inv.exists_trace_of_ready {s : State} (hs : Inv s) (hl : s.life = .ready) :
    ∃ more, s.pinTrace = planEvents constructPlan ++ more ∧ ∀ r, Event.cfg r ∉ more := by
  obtain hc | ⟨r, hc⟩ := Option.eq_none_or_eq_some s.cur
  · obtain ⟨hwhole, -⟩ := hs.idleOk hc
    rw [hl] at hwhole
    exact hwhole.2.2.1
  · obtain ⟨hplan, -, -, before, hwhole, htrace⟩ := hs.busyOk hc
    rw [hl] at hplan hwhole
    obtain ⟨-, -, ⟨more, rfl, hmore⟩, -⟩ := hwhole
    refine ⟨more ++ (planEvents r.plan).take r.k, by rw [htrace, List.append_assoc], fun q hq => ?_⟩
    exact (List.mem_append.1 hq).elim (hmore q)
      fun hq => (byteRun_of_acceptedPlan hplan).no_cfg q (List.mem_of_mem_take hq)

/-- All six handles of a READY block are bound, idle or busy. -/
theorem Inv.bound_of_ready {s : State} (hs : Inv s) (hl : s.life = .ready) (r : Role) :
    (getLine s.handle r).isSome := by
  obtain hc | ⟨_, hc⟩ := Option.eq_none_or_eq_some s.cur
  · exact (hs.idleOk hc).bound hl r
  · obtain ⟨-, -, hbound, -⟩ := hs.busyOk hc
    exact hbound r

/-- All six lines of a READY block are outputs (R31 a). -/
theorem Inv.allOutputs_of_ready {s : State} (hs : Inv s) (hl : s.life = .ready) : AllOutputs s := by
  obtain ⟨more, htrace, -⟩ := hs.exists_trace_of_ready hl
  obtain ⟨-, ⟨-, hdir⟩, -⟩ := hs
  refine lines_ext fun r => ?_
  rw [getLine_allLines, hdir r, htrace]
  exact List.mem_append_left _ (cfg_mem_constructPlan r)

/-- Written levels stay written while no line is configured (R14). -/
theorem levelsAfter_ne_x {l : Lines Level} {es : List Event} (hc : ∀ r, Event.cfg r ∉ es)
    (h : ∀ r, getLine l r ≠ .x) (r : Role) : getLine (levelsAfter l es) r ≠ .x := by
  induction es generalizing l with
  | nil => exact h r
  | cons e rest ih =>
    refine ih (fun q hq => hc q (List.mem_cons_of_mem _ hq)) fun q => ?_
    cases e with
    | set p b =>
      by_cases hq : q = p
      · subst hq
        cases b <;> simp [levelsStep, levelOfBool]
      · simpa [levelsStep, hq] using h q
    | wait d => exact h q
    | cfg p => exact absurd List.mem_cons_self (hc p)

/-- The levels of a READY block do not depend on those at reset: the construction wrote all six (R31 a). -/
theorem Inv.level_of_ready {s : State} (hs : Inv s) (hl : s.life = .ready) (l : Lines Level) :
    s.level = levelsAfter l s.pinTrace ∧ ∀ r, getLine s.level r ≠ .x := by
  obtain ⟨more, htrace, hmore⟩ := hs.exists_trace_of_ready hl
  obtain ⟨-, ⟨hlevel, -⟩, -⟩ := hs
  rw [htrace, levelsAfter_append, levelsAfter_constructPlan] at hlevel
  refine ⟨by rw [htrace, levelsAfter_append, levelsAfter_constructPlan, hlevel], fun r => ?_⟩
  rw [hlevel]
  exact levelsAfter_ne_x hmore (fun q => by cases q <;> decide) r

/-- Settles O48: READY means that the construction is in the trace; idle means that the trace is whole. -/
theorem invGivesTheReachableStates : Obligations.InvGivesTheReachableStates := by
  intro s hs
  refine ⟨fun hl r => ⟨hs.bound_of_ready hl r, ?_, (hs.level_of_ready hl (allLines .x)).2 r⟩, fun hl hc => ?_,
    fun hc => ?_⟩
  · rw [show s.dir = _ from hs.allOutputs_of_ready hl, getLine_allLines]
  · obtain ⟨hwhole, -⟩ := hs.idleOk hc
    rw [hl] at hwhole
    obtain ⟨-, -, -, hlow⟩ := hwhole
    rw [(hs.level_of_ready hl (allLines .x)).1]
    exact hlow
  · obtain ⟨⟨⟨bs, hbs, -⟩, -⟩, -⟩ := hs.idleOk hc
    obtain ⟨ps, hps, hpair⟩ := Option.bind_eq_some_iff.1 hbs
    exact ⟨ps, hps, by rw [pairStrobes_length hpair, Nat.mul_mod_right]⟩

/-- Settles O55: the trace starts with the construction's, which transmits the six bytes. -/
theorem transmittedBytesOfAReadyBlock : Obligations.TransmittedBytesOfAReadyBlock := by
  intro s hs hc hl
  obtain ⟨hwhole, -⟩ := hs.idleOk hc
  rw [hl] at hwhole
  obtain ⟨⟨bs, hbs, hcmd⟩, -, ⟨rest, htrace, -⟩, -⟩ := hwhole
  obtain ⟨more, rfl⟩ := exists_bytesOf_of_transmits transmits_constructPlan (htrace ▸ hbs)
  exact ⟨more, hbs, hcmd⟩

/-! ### No event of an operation stops -/

/-- An event is performed where every line is bound and a line that it sets is an output (R32, R34). -/
theorem exists_perform_next {e : Event} {s : State} (hb : ∀ r, (getLine s.handle r).isSome)
    (hset : ∀ r b, e = .set r b → getLine s.dir r = .output) : ∃ t, perform e s = .next t := by
  cases e with
  | set r b => exact ⟨_, perform_set_output b (hset r b rfl)⟩
  | wait d => exact ⟨_, rfl⟩
  | cfg r => exact ⟨_, perform_cfg_of_bound (hb r)⟩

/-- A list runs whole where every line is bound and every SET of a line comes when it is an output (R32, R34). -/
theorem exists_runPlan_next {ms : List Micro} {s : State} (hb : ∀ r, (getLine s.handle r).isSome)
    (hset : ∀ a r b c, planEvents ms = a ++ .set r b :: c → getLine (dirsAfter s.dir a) r = .output) :
    ∃ t, runPlan ms s = .next t := by
  induction ms generalizing s with
  | nil => exact ⟨s, rfl⟩
  | cons m rest ih =>
    obtain ⟨u, hu⟩ : ∃ u, runMicro m s = .next u := by
      refine exists_perform_next (by simpa using hb) fun r b he => ?_
      rw [State.transfers_dir]
      exact hset [] r b _ (by rw [planEvents_cons, he]; rfl)
    have hran := runMicro_next hu
    obtain ⟨t, ht⟩ := ih (s := u) (by rw [hran.handle]; exact hb) fun a r b c hrest => by
      rw [hran.dir]
      exact hset (m.event :: a) r b c (by rw [planEvents_cons, hrest]; rfl)
    exact ⟨t, andThen_eq_next.2 ⟨u, hu, ht⟩⟩

/-- When the running operation sets a line, the line is an output (R31 c, R32). -/
theorem Inv.output_before_set {s : State} {r : Running} {a c : List Event} {q : Role} {b : Bool} (hs : Inv s)
    (hc : s.cur = some r) (hdrop : (planEvents r.plan).drop r.k = a ++ .set q b :: c) :
    getLine (dirsAfter s.dir a) q = .output := by
  obtain ⟨hplan, -, -, before, hwhole, htrace⟩ := hs.busyOk hc
  obtain ⟨-, ⟨-, hdir⟩, -⟩ := hs
  have hall : planEvents r.plan = ((planEvents r.plan).take r.k ++ a) ++ .set q b :: c := by
    rw [List.append_assoc, ← hdrop, List.take_append_drop]
  have hcfg := cfg_mem_before_set hwhole hplan hall
  rw [← List.append_assoc, ← htrace, List.mem_append] at hcfg
  rwa [getLine_dirsAfter, hdir q]

/-- The event at the position of the running operation is performed (R31 c). -/
theorem Inv.exists_perform_next {s : State} {r : Running} {m : Micro} (hs : Inv s) (hc : s.cur = some r)
    (hm : r.plan[r.k]? = some m) : ∃ t, perform m.event (s.advance r m) = .next t := by
  obtain ⟨-, -, hbound, -⟩ := hs.busyOk hc
  obtain ⟨hk, hget⟩ := List.getElem?_eq_some_iff.1 hm
  refine Machine.exists_perform_next (by simpa using hbound) fun q b he => ?_
  rw [State.advance_dir]
  refine hs.output_before_set (a := []) hc ?_ (b := b) (c := planEvents (r.plan.drop (r.k + 1)))
  rw [planEvents, ← List.map_drop, List.drop_eq_getElem_cons hk, hget, List.map_cons, he]
  rfl

/-- What is left of the running operation runs whole (R31 c). -/
theorem Inv.exists_runPlan_next {s : State} {r : Running} (hs : Inv s) (hc : s.cur = some r) :
    ∃ t, runPlan (r.plan.drop r.k) s = .next t := by
  obtain ⟨-, -, hbound, -⟩ := hs.busyOk hc
  refine Machine.exists_runPlan_next hbound fun a q b c hdrop => ?_
  rw [planEvents, List.map_drop] at hdrop
  exact hs.output_before_set hc hdrop

/-- Settles O49: an event of the running operation goes on, so what stops a step is a request at the port. -/
theorem onlyRefusedRequestsStop : Obligations.OnlyRefusedRequestsStop := by
  intro s x hs h
  have hr : s.rst = false := by
    by_contra hr
    cases (step_of_rst (by simpa using hr)).symm.trans h
  obtain ⟨why, -, -, rfl⟩ | ⟨i, rest, hd, hx⟩ | ⟨r, m, hc, hm, hp⟩ := step_refused ⟨hr, hs.1⟩ h
  · exact .inl ⟨why, rfl⟩
  · obtain hbusy | ⟨hc, rfl⟩ := exec_hostOp_refused (decode_hostreq_instr hd).2 hx
    · exact .inr (.inl hbusy)
    · refine .inr (.inr ⟨hc, ?_⟩)
      cases lifeNeeded i with
      | ready => exact .inl rfl
      | unconstructed => exact .inr rfl
  · obtain ⟨t, ht⟩ := hs.exists_perform_next hc hm
    cases ht.symm.trans hp

/-! ### E during the waveform -/

/-- E is high in the two phases of the pulse (R82). -/
def EHigh (w : Wave) : Prop := w.phase = .high ∨ w.phase = .pulsed

/-- A transition of the waveform raises E into the pulse and lets it fall out of it, and writes it never else. -/
theorem WaveMove.e_high_iff {w v : Wave} {e : Event} {l : Lines Level} (h : WaveMove w e v)
    (hw : l.e = .high ↔ EHigh w) : (levelsStep l e).e = .high ↔ EHigh v := by
  have hother : ∀ {r : Role} {b : Bool}, r ≠ .e → (levelsStep l (.set r b)).e = l.e :=
    fun hr => getLine_setLine_other l _ (Ne.symm hr)
  cases h with
  | select b | driveHigh half | driveLow =>
    rw [hother (by decide), hw]
    simp [EHigh]
  | write half hrs he hfirst =>
    rw [hother he, hw]
  | settle | arm half | hold half | complete half => exact hw.trans (by simp [EHigh])
  | rise half | fall half => simp [EHigh, levelsStep, setLine, levelOfBool]
  | configure r =>
    cases r with
    | e => simp [EHigh, levelsStep, setLine]
    | rs | d4 | d5 | d6 | d7 => exact hw

/-- Along the waveform E is high exactly in the two phases of the pulse. -/
theorem e_high_iff_of_waveFrom {w v : Wave} {t : List Event} {l : Lines Level} (h : waveFrom w t = some v)
    (hw : l.e = .high ↔ EHigh w) : (levelsAfter l t).e = .high ↔ EHigh v := by
  induction t generalizing w l with
  | nil =>
    cases h
    exact hw
  | cons e rest ih =>
    obtain ⟨u, hm, hrest⟩ := waveFrom_cons_some h
    exact ih hrest (hm.e_high_iff hw)

/-- In the pulse no line but E is written (R91). -/
theorem WaveMove.not_eHigh_of_set {w v : Wave} {r : Role} {b : Bool} (h : WaveMove w (.set r b) v) (hr : r ≠ .e) :
    ¬ EHigh w := by
  cases h with
  | rise | fall => exact absurd rfl hr
  | select | driveHigh | driveLow | write => simp [EHigh]

/-- Settles O54: E is high in the pulse alone, and no transition of the pulse writes another line. -/
theorem noLineMovesDuringAPulse : Obligations.NoLineMovesDuringAPulse := by
  intro s a b r x hs hr ht
  obtain ⟨u, hu⟩ := hs.waveFrom_pinTrace
  obtain ⟨w, v, ha, hm, -⟩ := waveFrom_append_cons_some (ht ▸ hu)
  rw [Ne, e_high_iff_of_waveFrom ha (by simp [EHigh, waveStart, allLines])]
  exact hm.not_eHigh_of_set hr

end Sys2Proof.Machine
end

/-! ## Running a list step by step (42_sequencer.md) -/

section

namespace Sys2Proof.Machine

/-- The transfers do not look at the running operation, and leave it. -/
theorem transfers_withCur (s : State) (c : Option Running) (ts : List Transfer) :
    { s with cur := c }.transfers ts = { s.transfers ts with cur := c } := by
  induction ts generalizing s with
  | nil => rfl
  | cons x rest ih =>
    have hx : { s with cur := c }.transfer x = { s.transfer x with cur := c } := by
      cases x with
      | diag text =>
        simp only [State.transfer, State.diag]
        split <;> rfl
      | loadSend _ _ | loadLine _ | loadTl _ | dropSend => rfl
    show ({ s with cur := c }.transfer x).transfers rest = _
    rw [hx]
    exact ih (s.transfer x)

/-- An event does not look at the running operation, and leaves it. -/
theorem perform_withCur (e : Event) (s : State) (c : Option Running) :
    perform e { s with cur := c } = mapNext (fun t => { t with cur := c }) (perform e s) := by
  cases e with
  | set r b =>
    simp only [perform]
    split <;> rfl
  | wait d => rfl
  | cfg r =>
    simp only [perform]
    split <;> rfl

/-- A step of the running operation is a place of its list, run on its own, and the position advanced (R113). -/
theorem perform_advance (s : State) (c : Option Running) (r : Running) (m : Micro) :
    perform m.event (State.advance { s with cur := c } r m) =
      mapNext (fun t => { t with cur := some { r with k := r.k + 1 } }) (runMicro m s) := by
  show perform m.event ({ s with cur := some { r with k := r.k + 1 } }.transfers m.pre) = _
  rw [transfers_withCur s, perform_withCur]
  rfl

/-- Inputs that an event leaves alone stay as they are while an operation runs. -/
theorem Ran.quiet {s t : State} {es : List Event} (h : Ran s t es) (hq : Quiet s) : Quiet t :=
  ⟨h.rst.trans hq.1, h.unitCall.trans hq.2⟩

theorem Ran.noRequest {s t : State} {es : List Event} (h : Ran s t es) (hn : NoRequest s) : NoRequest t := by
  rw [NoRequest, h.hostIn]
  exact hn

/-- Performing a part of the running list step by step is running that part, with the position after it (R113). -/
theorem runSteps_eq_runPlan {s : State} (op : Instr) (before mid after : List Micro) (hq : Quiet s)
    (hn : NoRequest s) :
    runSteps mid.length { s with cur := some ⟨op, before ++ mid ++ after, before.length⟩ } =
      andThen (runPlan mid s) fun t =>
        .next { t with cur := some ⟨op, before ++ mid ++ after, before.length + mid.length⟩ } := by
  induction mid generalizing before s with
  | nil => rfl
  | cons m rest ih =>
    have hm : (before ++ m :: rest ++ after)[before.length]? = some m := by simp
    have hstep := step_busy (s := { s with cur := some ⟨op, before ++ m :: rest ++ after, before.length⟩ }) hq hn
      rfl hm
    rw [perform_advance] at hstep
    rw [List.length_cons, runSteps_succ, hstep, runPlan_cons, mapNext, andThen_assoc, andThen_assoc]
    cases hu : runMicro m s with
    | next u =>
      have hran := runMicro_next hu
      have h := ih (before ++ [m]) (hran.quiet hq) (hran.noRequest hn)
      have hplan : before ++ [m] ++ rest ++ after = before ++ m :: rest ++ after := by simp
      have hk : before.length + 1 + rest.length = before.length + (rest.length + 1) := by omega
      rw [hplan, List.length_append, List.length_singleton, hk] at h
      exact h
    | fault r => rfl
    | refused r => rfl

/-- Settles O45: the part is the whole list. -/
theorem steppingEqualsBigStep : Obligations.SteppingEqualsBigStep := by
  intro s op plan hq hn
  have h := runSteps_eq_runPlan op [] plan [] hq hn
  rw [List.nil_append, List.append_nil, List.length_nil, Nat.zero_add] at h
  exact h

/-- The first `j` places of a part of the running list, step by step. -/
theorem runSteps_take {s : State} {op : Instr} {before ms after : List Micro} {j : Nat} (hq : Quiet s)
    (hn : NoRequest s) (hc : s.cur = some ⟨op, before ++ ms ++ after, before.length⟩) (hj : j ≤ ms.length) :
    ∃ c, runSteps j s = andThen (runPlan (ms.take j) s) fun t => .next { t with cur := c } := by
  have h := runSteps_eq_runPlan op before (ms.take j) (ms.drop j ++ after) hq hn
  have hplan : before ++ ms.take j ++ (ms.drop j ++ after) = before ++ ms ++ after := by
    rw [List.append_assoc, ← List.append_assoc (ms.take j), List.take_append_drop, ← List.append_assoc]
  rw [hplan, ← hc, List.length_take_of_le hj] at h
  exact ⟨_, h⟩

/-! ### The operand registers while a list runs -/

/-- Transfers put before a list are made before it runs. -/
theorem runPlan_withPre (ts : List Transfer) {ms : List Micro} (h : ms ≠ []) (s : State) :
    runPlan (withPre ts ms) s = runPlan ms (s.transfers ts) := by
  cases ms with
  | nil => exact absurd rfl h
  | cons m rest => simp [withPre, runMicro, State.transfers]

/-- A part from the start on has the transfers put before the list. -/
theorem take_withPre (ts : List Transfer) (ms : List Micro) (j : Nat) :
    (withPre ts ms).take j = withPre ts (ms.take j) := by
  cases ms <;> cases j <;> rfl

theorem withPre_append (ts : List Transfer) {a : List Micro} (b : List Micro) (h : a ≠ []) :
    withPre ts a ++ b = withPre ts (a ++ b) := by
  cases a with
  | nil => exact absurd rfl h
  | cons m rest => rfl

theorem take_ne_nil {α : Type} {xs : List α} {j : Nat} (h : xs ≠ []) (hj : 1 ≤ j) : xs.take j ≠ [] := by
  rw [Ne, List.take_eq_nil_iff, not_or]
  exact ⟨by omega, h⟩

/-- From its first event on a SEND holds its operands in VALUE and MODE (R22). -/
theorem runPlan_take_sendPlan {v : Byte} {m : Bool} {j : Nat} {s t : State} (hj : 1 ≤ j)
    (h : runPlan ((sendPlan v m).take j) s = .next t) : t.value = v ∧ t.mode = m := by
  have hne : (plain (sendEvents v m)).take j ≠ [] := take_ne_nil (by simp [plain, sendEvents]) hj
  rw [sendPlan, take_withPre, runPlan_withPre _ hne, plain, ← List.map_take] at h
  rw [runPlan_plain_rest h]
  exact ⟨rfl, rfl⟩

/-- SENDs in a row load LINE and TL never. -/
theorem exists_eq_loadSend_of_mem_pre {cs : List Byte} {b : Bool} {m : Micro} {x : Transfer}
    (hm : m ∈ cs.flatMap fun c => sendPlan c b) (hx : x ∈ m.pre) : ∃ v, x = .loadSend v b := by
  obtain ⟨c, -, hm⟩ := List.mem_flatMap.1 hm
  exact ⟨c, eq_loadSend_of_mem_pre hm hx⟩

/-- From its first event on a WRITE_LINE holds its line number in LINE (R23). -/
theorem runPlan_take_linePlan_line {text : List Byte} {line base : Byte} {j : Nat} {s t : State} (hj : 1 ≤ j)
    (h : runPlan ((linePlan text line base).take j) s = .next t) : t.line = line := by
  have hne : ∀ b, sendPlan base modeCmd ++ b ≠ [] := fun b hb => sendPlan_ne_nil _ _ (List.append_eq_nil_iff.1 hb).1
  rw [linePlan, withPre_append _ _ (sendPlan_ne_nil _ _), take_withPre, runPlan_withPre _ (take_ne_nil (hne _) hj)] at h
  refine (runPlan_line (fun m hm l hl => ?_) h).trans rfl
  obtain hm | hm := List.mem_append.1 (List.mem_of_mem_take hm)
  · cases eq_loadSend_of_mem_pre hm hl
  · obtain hl | ⟨m', hm', hl⟩ := mem_pre_withPre hm hl
    · simp at hl
    · obtain ⟨v, hv⟩ := exists_eq_loadSend_of_mem_pre hm' hl
      cases hv

/-- From the first event after its address byte on a WRITE_LINE holds its normalised text in TL (R24, R97). -/
theorem runPlan_take_linePlan_tl {text : List Byte} {line base : Byte} {j : Nat} {s t : State}
    (hj : (sendPlan base modeCmd).length < j) (h : runPlan ((linePlan text line base).take j) s = .next t) :
    t.tl = normText text := by
  have hlen : (withPre [.diag text, .loadLine line] (sendPlan base modeCmd)).length =
      (sendPlan base modeCmd).length := by
    cases sendPlan base modeCmd <;> rfl
  rw [linePlan, List.take_append, List.take_of_length_le (by omega), runPlan_append, hlen] at h
  obtain ⟨u, -, h⟩ := andThen_eq_next.1 h
  rw [take_withPre, runPlan_withPre _ (take_ne_nil (flatMap_normText_ne_nil text) (by omega))] at h
  refine (runPlan_tl (fun m hm v hv => ?_) h).trans rfl
  obtain ⟨v, hv⟩ := exists_eq_loadSend_of_mem_pre (List.mem_of_mem_take hm) hv
  cases hv

/-- A part of a list without CFG runs whole on outputs. -/
theorem exists_runPlan_take {ms : List Micro} {s : State} (h : AllOutputs s) (hc : ∀ r, Event.cfg r ∉ planEvents ms)
    (j : Nat) : ∃ t, runPlan (ms.take j) s = .next t := by
  refine runPlan_outputs h fun r hr => hc r ?_
  rw [planEvents, List.map_take] at hr
  exact List.mem_of_mem_take hr

/-- Settles O43: the steps run a part of the list, which loads the registers with its first event. -/
theorem operandRegistersAreLoaded : Obligations.OperandRegistersAreLoaded := by
  constructor
  · intro s op before after v m j hq hn ho hc hj hlen
    obtain ⟨c, hsteps⟩ := runSteps_take hq hn hc hlen
    obtain ⟨t, ht⟩ := exists_runPlan_take ho (planEvents_sendPlan v m ▸ cfg_not_mem_sendEvents v m) j
    have hloaded := runPlan_take_sendPlan hj ht
    rw [ht] at hsteps
    exact ⟨_, hsteps, hloaded⟩
  · intro s op before after text line base j hq hn ho hc hj hlen
    obtain ⟨c, hsteps⟩ := runSteps_take hq hn hc hlen
    obtain ⟨t, ht⟩ := exists_runPlan_take ho (cfg_not_mem_linePlan text line base) j
    have hline := runPlan_take_linePlan_line hj ht
    have htl := fun hpast => runPlan_take_linePlan_tl hpast ht
    rw [ht] at hsteps
    exact ⟨_, hsteps, hline, htl⟩

end Sys2Proof.Machine
end

/-! ## Operations from the request to the response (42_sequencer.md) -/

section

namespace Sys2Proof.Machine

/-- The running operation runs what is left of its list, then posts its OK: the block is idle and READY (R113). -/
theorem Inv.runSteps_to_end {s : State} {r : Running} (hs : Inv s) (hr : s.rst = false) (hn : NoRequest s)
    (hc : s.cur = some r) : ∃ u, runPlan (r.plan.drop r.k) s = .next u ∧
      runSteps (r.plan.length - r.k + 1) s =
        .next ({ u.dropOperands with life := .ready, cur := none }.post .ok) := by
  have hq : Quiet s := ⟨hr, hs.1⟩
  obtain ⟨hplan, hk, -⟩ := hs.busyOk hc
  obtain ⟨u, hu⟩ := hs.exists_runPlan_next hc
  refine ⟨u, hu, ?_⟩
  have hran := runPlan_next hu
  have hsteps := runSteps_eq_runPlan r.op (r.plan.take r.k) (r.plan.drop r.k) [] hq hn
  rw [List.append_nil, List.take_append_drop, List.length_take_of_le hk, List.length_drop, Nat.add_sub_cancel' hk,
    show some ⟨r.op, r.plan, r.k⟩ = s.cur from hc.symm, hu, andThen_next_left] at hsteps
  have hend : step { u with cur := some ⟨r.op, r.plan, r.plan.length⟩ } =
      .next ({ u.dropOperands with life := lifeAfter r.op u.life, cur := none }.post .ok) :=
    (step_end (s := { u with cur := some ⟨r.op, r.plan, r.plan.length⟩ }) (hran.quiet hq) (hran.noRequest hn) rfl
      le_rfl).trans (finish_end (r := ⟨r.op, r.plan, r.plan.length⟩) rfl le_rfl)
  rw [← hran.life] at hplan
  rw [lifeAfter_of_acceptedPlan hplan] at hend
  rw [runSteps_add, hsteps, andThen_next_left, runSteps_succ, hend]
  rfl

/-- Settles O56: the list runs whole, and its run changes nothing but the lines, the trace and the registers. -/
theorem acceptedOperationRunsToItsEnd : Obligations.AcceptedOperationRunsToItsEnd := by
  intro s r hs hr hn hc
  obtain ⟨u, hu, hsteps⟩ := hs.runSteps_to_end hr hn hc
  have hran := runPlan_next hu
  have hdrop : planEvents (r.plan.drop r.k) = (planEvents r.plan).drop r.k := List.map_drop
  rw [hdrop] at hran
  refine ⟨_, hsteps, rfl, rfl, ?_, hran.pinTrace, hran.level, hran.handle, hran.hostIn, hran.program⟩
  show u.resp ++ [.ok] = _
  rw [hran.resp]

/-- The invariant holds after any number of steps. -/
theorem Inv.after_runSteps {n : Nat} {s t : State} (hs : Inv s) (h : runSteps n s = .next t) : Inv t := by
  induction n generalizing s with
  | zero =>
    cases h
    exact hs
  | succ n ih =>
    rw [runSteps_succ] at h
    obtain ⟨u, hu, ht⟩ := andThen_eq_next.1 h
    exact ih (invEveryStep s u hs hu) ht

/-- `t` is an idle READY block that has run `ms` after `s`, answered OK, and left `rest` at its port. -/
structure Delivered (s t : State) (ms : List Micro) (rest : List Byte) : Prop where
  inv : Inv t
  idle : IdleReady t
  pinTrace : t.pinTrace = s.pinTrace ++ planEvents ms
  level : t.level = levelsAfter s.level (planEvents ms)
  diagTrace : t.diagTrace = s.diagTrace ++ diagEntries s.plat (planTexts ms)
  resp : t.resp = s.resp ++ [.ok]
  hostIn : t.hostIn = rest

/-- A whole request at the port that starts a list is run to its OK: one step accepts it, one step for each event,
and one for the OK (R113; log 1, log 16). -/
theorem Inv.delivers {s : State} {i : Instr} {ms : List Micro} {b : Lines (Option Handle)} {rest : List Byte}
    (hs : Inv s) (hr : s.rst = false) (hin : s.hostIn = encode i ++ rest) (hwf : WellFormed i) (hi : IsHostOp i)
    (hrest : decode .hostreq rest = .refused .incomplete)
    (hx : exec i { s with hostIn := rest } = .next ({ s with hostIn := rest, handle := b }.start i ms)) :
    ∃ t, runSteps (ms.length + 2) s = .next t ∧ Delivered s t ms rest ∧ t.handle = b := by
  have hd : decode .hostreq s.hostIn = .instr i rest := by
    rw [hin, ← show formatOf i = .hostreq from hi]
    exact decodeOfEncode i rest hwf
  have hstep := (step_of_request ⟨hr, hs.1⟩ hd).trans hx
  obtain ⟨u, hu, hend⟩ := (invEveryStep s _ hs hstep).runSteps_to_end hr hrest rfl
  have hsteps : runSteps (ms.length + 2) s =
      .next ({ u.dropOperands with life := .ready, cur := none }.post .ok) := by
    rw [runSteps_succ, hstep]
    exact hend
  have hran := runPlan_next hu
  have hdiag := runPlan_diagTrace hu
  refine ⟨_, hsteps, ⟨hs.after_runSteps hsteps, ⟨rfl, rfl⟩, hran.pinTrace, hran.level, hdiag, ?_, hran.hostIn⟩,
    hran.handle⟩
  show u.resp ++ [.ok] = _
  rw [hran.resp]
  rfl

theorem length_planEvents (ms : List Micro) : (planEvents ms).length = ms.length :=
  List.length_map _

/-- Settles O57: nothing is in the trace before, and the list of CONSTRUCT leads where it leads from any levels. -/
theorem constructDelivers : Obligations.ConstructDelivers := by
  intro s ids h rest hs hr hidle hres hin hrest
  have hx : exec (.construct ids) { s with hostIn := rest } =
      .next ({ s with hostIn := rest, handle := boundLines h }.start (.construct ids) constructPlan) := by
    refine (execConstruct_idle (s := { s with hostIn := rest }) hidle).trans ?_
    rw [hres]
  have hlen : constructPlan.length = 135 :=
    (length_planEvents _).symm.trans (congrArg Prod.fst sizes_constructPlan)
  have hempty : s.pinTrace = [] := by
    obtain ⟨hwhole, -⟩ := hs.idleOk hidle.1
    rw [hidle.2] at hwhole
    exact hwhole.2.2
  obtain ⟨t, ht, hdone, hhandle⟩ := hs.delivers hr hin trivial rfl hrest hx
  rw [hlen] at ht
  refine ⟨t, ht, hdone.idle, hhandle, hdone.inv.allOutputs_of_ready hdone.idle.2, ?_, ?_, hdone.resp, hdone.hostIn⟩
  · rw [hdone.level, levelsAfter_constructPlan]
  · rw [hdone.pinTrace, hempty]
    exact transmits_constructPlan.bytesOf_eq

/-- Settles O58: the list of CLEAR is one SEND, and it gives no text. -/
theorem clearDelivers : Obligations.ClearDelivers := by
  intro s rest bs hs hr ⟨hc, hl⟩ hin hrest hbs
  have hx : exec .clear { s with hostIn := rest } = .next ({ s with hostIn := rest }.start .clear clearPlan) := by
    show execClear _ = _
    exact accept_idle _ hc hl
  have hlen : clearPlan.length = 20 := (length_planEvents _).symm.trans (congrArg Prod.fst sizes_clearPlan)
  obtain ⟨t, ht, hdone, -⟩ := hs.delivers hr hin trivial rfl hrest hx
  rw [hlen] at ht
  refine ⟨t, ht, hdone.idle, ?_, ?_, ?_, hdone.resp, hdone.hostIn⟩
  · rw [hdone.pinTrace]
    exact bytesOf_append hbs transmits_clearPlan
  · rw [hdone.diagTrace, clearPlan, planTexts_sendPlan]
    simp [diagEntries]
  · rw [hdone.level, planEvents_clearPlan, levelsAfter_sendEvents]
    decide

/-- Settles O59: the list of WRITE_LINE transmits the line and gives its text. -/
theorem showLineDelivers : Obligations.ShowLineDelivers := by
  intro s text line base rest bs hs hr hidle hfit hbase hin hrest hbs
  have hplan : writeLinePlan text line = some (linePlan text line base) := by
    rw [writeLinePlan, hbase, Option.map_some]
  have hx : exec (.showLine text line) { s with hostIn := rest } =
      .next ({ s with hostIn := rest }.start (.showLine text line) (linePlan text line base)) := by
    refine (execShowLine_idle (s := { s with hostIn := rest }) hidle).trans ?_
    rw [hplan]
  obtain ⟨t, ht, hdone, -⟩ := hs.delivers hr hin hfit rfl hrest hx
  refine ⟨_, t, ht, hdone.idle, ?_, ?_, hdone.resp, hdone.hostIn⟩
  · rw [hdone.pinTrace]
    exact bytesOf_append hbs (transmits_linePlan text line base)
  · rw [hdone.diagTrace, planTexts_linePlan]

/-- Settles O60: the list of SHOW transmits both lines and gives both chunks. -/
theorem showDelivers : Obligations.ShowDelivers := by
  intro s text rest bs hs hr ⟨hc, hl⟩ hfit hin hrest hbs
  have hx : exec (.showBoth text) { s with hostIn := rest } =
      .next ({ s with hostIn := rest }.start (.showBoth text) (showPlan text)) := by
    show execShowBoth text _ = _
    exact accept_idle _ hc hl
  obtain ⟨t, ht, hdone, -⟩ := hs.delivers hr hin hfit rfl hrest hx
  refine ⟨_, t, ht, hdone.idle, ?_, ?_, hdone.resp, hdone.hostIn⟩
  · rw [hdone.pinTrace, List.append_assoc]
    exact bytesOf_append hbs (transmits_showPlan text)
  · rw [hdone.diagTrace, showPlan, planTexts_append, planTexts_linePlan, planTexts_linePlan]
    rfl

end Sys2Proof.Machine
end

/-! ## What reaches nothing else (10_state.md section 5, 93_implementation_defined.md) -/

section

namespace Sys2Proof.Machine

/-! ### Operations seen through a view of the state -/

section view

variable {W : State → State}

/-- An update does to the view of a state what it does to the view of the view. -/
def Respects (W : State → State) (u : State → State) : Prop := ∀ s, W (u (W s)) = W (u s)

/-- An operation answers the view of a state as it answers the state, as far as the view shows. -/
def Blind (W : State → State) (f : State → StepResult) : Prop := ∀ s, mapNext W (f (W s)) = mapNext W (f s)

theorem Respects.congr {u : State → State} (h : Respects W u) {x y : State} (hxy : W x = W y) : W (u x) = W (u y) := by
  rw [← h x, hxy, h y]

theorem Respects.comp {u v : State → State} (hv : Respects W v) (hu : Respects W u) : Respects W fun s => v (u s) :=
  fun s => hv.congr (hu s)

theorem Blind.congr {f : State → StepResult} (h : Blind W f) {x y : State} (hxy : W x = W y) :
    mapNext W (f x) = mapNext W (f y) := by
  rw [← h x, hxy, h y]

theorem Blind.comp {f : State → StepResult} {u : State → State} (hf : Blind W f) (hu : Respects W u) :
    Blind W fun s => f (u s) :=
  fun s => hf.congr (hu s)

theorem Respects.blind {u : State → State} (h : Respects W u) : Blind W fun s => .next (u s) :=
  fun s => congrArg Host.Outcome.next (h s)

theorem Blind.mapNext_andThen {a b : StepResult} {g : State → StepResult} (hg : Blind W g)
    (hab : mapNext W a = mapNext W b) : mapNext W (andThen a g) = mapNext W (andThen b g) := by
  cases a with
  | next x =>
    cases b with
    | next y => exact hg.congr (Host.Outcome.next.inj hab)
    | fault _ | refused _ => cases hab
  | fault r => cases r
  | refused r =>
    cases b with
    | refused r' =>
      cases hab
      rfl
    | next _ | fault _ => cases hab

theorem Blind.andThen {f g : State → StepResult} (hf : Blind W f) (hg : Blind W g) :
    Blind W fun s => andThen (f s) g :=
  fun s => hg.mapNext_andThen (hf s)

/-- A view that hides some of the operand registers, TIMER, the count of free values and the diagnostic channel, and
that every update respects. -/
structure Hides (W : State → State) : Prop where
  only : ∀ s, W s = { s with
    value := (W s).value, mode := (W s).mode, line := (W s).line, tl := (W s).tl, timer := (W s).timer,
    draws := (W s).draws, diagTrace := (W s).diagTrace,
    plat := { s.plat with diagEnable := (W s).plat.diagEnable } }
  idem : Respects W id
  emit : ∀ e, Respects W fun s => s.emit e
  setLevel : ∀ r b, Respects W fun s => s.setLevel r b
  runTimer : ∀ d, Respects W fun s => s.runTimer d
  configure : ∀ r, Respects W fun s => s.configure r
  transfer : ∀ x, Respects W fun s => s.transfer x
  dropOperands : Respects W fun s => s.dropOperands
  post : ∀ e, Respects W fun s => s.post e
  setCur : ∀ c, Respects W fun s => { s with cur := c }
  setLife : ∀ l, Respects W fun s => { s with life := l }
  setHandle : ∀ b, Respects W fun s => { s with handle := b }
  setHostIn : ∀ q, Respects W fun s => { s with hostIn := q }
  setProgram : ∀ p, Respects W fun s => { s with program := p }
  setUnitCall : ∀ i, Respects W fun s => { s with unitCall := i }
  applyReset : Respects W fun s => s.applyReset

namespace Hides

variable (h : Hides W)
include h

/-! What the view shows. -/

theorem dir (s : State) : (W s).dir = s.dir := by rw [h.only]
theorem handle (s : State) : (W s).handle = s.handle := by rw [h.only]
theorem life (s : State) : (W s).life = s.life := by rw [h.only]
theorem cur (s : State) : (W s).cur = s.cur := by rw [h.only]
theorem rst (s : State) : (W s).rst = s.rst := by rw [h.only]
theorem hostIn (s : State) : (W s).hostIn = s.hostIn := by rw [h.only]
theorem program (s : State) : (W s).program = s.program := by rw [h.only]
theorem unitCall (s : State) : (W s).unitCall = s.unitCall := by rw [h.only]

theorem resolveAll (s : State) (ids : Lines PinId) : resolveAll (W s).plat ids = resolveAll s.plat ids := by
  rw [h.only]
  rfl

/-! The shared operations. -/

theorem perform (e : Event) : Blind W (perform e) := by
  intro s
  cases e with
  | set r b =>
    simp only [Machine.perform, h.dir]
    split
    · exact ((h.emit _).comp (h.setLevel r b)).blind s
    · rfl
  | wait d => exact ((h.emit _).comp (h.runTimer d)).blind s
  | cfg r =>
    simp only [Machine.perform, h.handle]
    split
    · exact ((h.emit _).comp (h.configure r)).blind s
    · rfl

theorem transfers (ts : List Transfer) : Respects W fun s => s.transfers ts := by
  induction ts with
  | nil => exact h.idem
  | cons x rest ih => exact ih.comp (h.transfer x)

theorem runPlan (ms : List Micro) : Blind W (runPlan ms) := by
  induction ms with
  | nil => exact h.idem.blind
  | cons m rest ih => exact ((h.perform m.event).comp (h.transfers m.pre)).andThen ih

theorem sendWhole (v : Byte) (m : Bool) : Blind W (sendWhole v m) :=
  (h.runPlan _).andThen (h.transfer .dropSend).blind

theorem raise (e : Response) : Blind W (raise e) := by
  intro s
  simp only [Machine.raise, h.cur]
  split
  · rfl
  · exact (h.post e).blind s

theorem start (op : Instr) (plan : List Micro) : Respects W fun s => s.start op plan :=
  h.setCur (some ⟨op, plan, 0⟩)

theorem accept (need : Life) {go : State → StepResult} (hgo : Blind W go) : Blind W fun s => accept need s go := by
  intro s
  simp only [Machine.accept, h.cur, h.life]
  split
  · rfl
  · split
    · exact hgo s
    · rfl

theorem finish : Blind W finish := by
  intro s
  simp only [Machine.finish, h.cur, h.life]
  split
  · rfl
  · next r _ =>
    split
    · rfl
    · exact ((h.post .ok).comp ((h.setCur none).comp ((h.setLife (lifeAfter r.op s.life)).comp h.dropOperands))).blind s

theorem execWriteLine (text : List Byte) (line : Byte) : Blind W (execWriteLine text line) := by
  unfold Machine.execWriteLine
  split
  · exact h.raise _
  · exact (h.runPlan _).andThen h.dropOperands.blind

theorem execShowLine (text : List Byte) (line : Byte) : Blind W (execShowLine text line) := by
  refine h.accept .ready ?_
  split
  · exact h.raise _
  · exact (h.start _ _).blind

theorem execConstruct (ids : Lines PinId) : Blind W (execConstruct ids) := by
  refine h.accept .unconstructed fun s => ?_
  simp only [h.resolveAll]
  split
  · exact h.raise _ s
  · exact ((h.start _ _).comp (h.setHandle _)).blind s

/-- No row looks at what such a view hides. -/
theorem exec (i : Instr) : Blind W (exec i) := by
  cases i with
  | construct ids => exact h.execConstruct ids
  | clear => exact h.accept .ready (h.start _ _).blind
  | showLine text line => exact h.execShowLine text line
  | showBoth text => exact h.accept .ready (h.start _ _).blind
  | writeLine text line => exact h.execWriteLine text line
  | toggleE | driveNibble _ | initializeLcd | frame _ _ => exact h.runPlan _
  | send _ _ | sendCmd _ | sendChr _ | chr _ | init0 | init1 | init2 | init3 | init4 | init5
  | addrL1 | addrL2 => exact h.sendWhole _ _
  | set r b => exact h.perform (.set r b)
  | wait d => exact h.perform (.wait d)
  | cfg r => exact h.perform (.cfg r)
  | ok => exact h.finish
  | invalidPinID | invalidLineNumber => exact h.raise _

theorem quiet {s : State} (hq : Quiet s) : Quiet (W s) := ⟨(h.rst s).trans hq.1, (h.unitCall s).trans hq.2⟩

/-- No step of a block without a whole request at its port looks at what such a view hides. -/
theorem step_noRequest {s : State} (hq : Quiet s) (hn : NoRequest s) : mapNext W (step (W s)) = mapNext W (step s) := by
  have hn' : NoRequest (W s) := by rw [NoRequest, h.hostIn]; exact hn
  cases hc : s.cur with
  | some r =>
    have hc' := (h.cur s).trans hc
    cases hm : r.plan[r.k]? with
    | some m =>
      rw [step_busy hq hn hc hm, step_busy (h.quiet hq) hn' hc' hm]
      exact ((h.perform m.event).comp ((h.transfers m.pre).comp (h.setCur _))) s
    | none =>
      have hk : r.plan.length ≤ r.k := by simpa using hm
      rw [step_end hq hn hc hk, step_end (h.quiet hq) hn' hc' hk]
      exact h.finish s
  | none =>
    have hc' := (h.cur s).trans hc
    by_cases hp : s.hostIn ≠ [] ∨ s.program = []
    · have hp' : (W s).hostIn ≠ [] ∨ (W s).program = [] := by rwa [h.hostIn, h.program]
      rw [step_waits hq hn hc hp, step_waits (h.quiet hq) hn' hc' hp']
      exact h.idem.blind s
    · rw [not_or, not_not] at hp
      obtain ⟨hin, hprog⟩ := hp
      obtain ⟨q, later, hprog⟩ := List.exists_cons_of_ne_nil hprog
      rw [step_sends hq hc hin hprog, step_sends (h.quiet hq) hc' ((h.hostIn s).trans hin)
        ((h.program s).trans hprog)]
      exact ((h.setProgram later).comp (h.setHostIn q)).blind s

/-- No step looks at what such a view hides. -/
theorem step : Blind W step := by
  intro s
  by_cases hr : s.rst = true
  · rw [step_of_rst hr, step_of_rst ((h.rst s).trans hr)]
    exact h.applyReset.blind s
  have hr : s.rst = false := by simpa using hr
  cases hu : s.unitCall with
  | some i =>
    rw [step_of_unitCall hr hu, step_of_unitCall ((h.rst s).trans hr) ((h.unitCall s).trans hu)]
    exact (h.exec i).comp (h.setUnitCall none) s
  | none =>
    have hq : Quiet s := ⟨hr, hu⟩
    cases hd : decode .hostreq s.hostIn with
    | instr i rest =>
      have hd' : decode .hostreq (W s).hostIn = .instr i rest := by rw [h.hostIn, hd]
      rw [step_of_request hq hd, step_of_request (h.quiet hq) hd']
      exact (h.exec i).comp (h.setHostIn rest) s
    | refused why =>
      by_cases hw : why = .incomplete
      · exact h.step_noRequest hq (by rw [NoRequest, hd, hw])
      · have hd' : decode .hostreq (W s).hostIn = .refused why := by rw [h.hostIn, hd]
        rw [step_of_reserved hq hw hd, step_of_reserved (h.quiet hq) hw hd']

end Hides

end view

/-! ### The two views -/

theorem hides_withoutOperands : Hides withoutOperands where
  only _ := rfl
  idem _ := rfl
  emit _ _ := rfl
  setLevel _ _ _ := rfl
  runTimer _ _ := rfl
  configure _ _ := rfl
  transfer x s := by
    cases x with
    | diag text =>
      show withoutOperands ((withoutOperands s).diag text) = withoutOperands (s.diag text)
      unfold State.diag
      cases hd : s.plat.diagEnable <;> simp [withoutOperands, hd]
    | loadSend _ _ | loadLine _ | loadTl _ | dropSend => rfl
  dropOperands _ := rfl
  post _ _ := rfl
  setCur _ _ := rfl
  setLife _ _ := rfl
  setHandle _ _ := rfl
  setHostIn _ _ := rfl
  setProgram _ _ := rfl
  setUnitCall _ _ := rfl
  applyReset _ := rfl

/-- Settles O11: no update that a step makes reads an operand register back. -/
theorem operandRegistersReachNothingElse : Obligations.OperandRegistersReachNothingElse :=
  fun _ _ => hides_withoutOperands.step.congr

/-- A text given to the diagnostic channel is not seen without it. -/
theorem withoutDiag_diag (s : State) (text : List Byte) : withoutDiag (s.diag text) = withoutDiag s := by
  unfold State.diag
  split <;> rfl

theorem hides_withoutDiag : Hides withoutDiag where
  only _ := rfl
  idem _ := rfl
  emit _ _ := rfl
  setLevel _ _ _ := rfl
  runTimer _ _ := rfl
  configure _ _ := rfl
  transfer x s := by
    cases x with
    | diag text => exact (withoutDiag_diag _ text).trans (withoutDiag_diag s text).symm
    | loadSend _ _ | loadLine _ | loadTl _ | dropSend => rfl
  dropOperands _ := rfl
  post _ _ := rfl
  setCur _ _ := rfl
  setLife _ _ := rfl
  setHandle _ _ := rfl
  setHostIn _ _ := rfl
  setProgram _ _ := rfl
  setUnitCall _ _ := rfl
  applyReset _ := rfl

/-- Settles O12: no update that a step makes reads the diagnostic channel or its parameter, but to give it a text. -/
theorem diagnosticsReachNothingElse : Obligations.DiagnosticsReachNothingElse :=
  fun _ _ => hides_withoutDiag.step.congr

end Sys2Proof.Machine
end
